-- ==== Sys2Proof/Word.lean ====
section
/-! DEFINITION. The data items of the block (00_scope.md R12, R15): bytes, byte sequences, sink numbers. -/

namespace Sys2Proof

/-- A data item: an unsigned integer 0..255 (R15). -/
abbrev Byte := BitVec 8

/-- A finite sequence of bytes of unbounded length, indexed from 0 (R12, R15, decision D9). -/
abbrev Bytes := List Byte

/-- A sink number, 8 bits; 0 is the null sink (R66, decision D5). -/
abbrev SinkId := BitVec 8

end Sys2Proof
end

