-- ==== Sys2Proof/Config.lean ====
section
/-! DEFINITION. The configuration of the model (00_scope.md R13, R14): the read-only constants, the value the
spec uses for each parameter, the free values the spec leaves to the implementation or to the environment,
and the parameters a stream is read with, as one argument. All the parameters of R13 together are the argument
`Parameters` of Machine/Encoder.lean. -/

namespace Sys2Proof.Config

/-- `PARAM_WIDTH` (R13, R36, decision D6): the width of the two's-complement integers of the parameter port. -/
def paramWidth : Nat := 32

/-- `WS_HEX` (R13, R136, decision D11). -/
def wsHex : List Byte := [0x00, 0x09, 0x0A, 0x0C, 0x0D, 0x20]

/-- Membership in `WS_A85` = 0x00..0x20 and 0x7F (R13, R162, decision D14). -/
def wsA85 (c : Byte) : Bool := c.toNat ≤ 0x20 || c.toNat == 0x7F

/-- `DEF_PREDICTOR` (R13, R37, decision D7). -/
def defPredictor : Int := 1
/-- `DEF_COLORS` (R13, R37, decision D7). -/
def defColors : Int := 1
/-- `DEF_BPC` (R13, R37, decision D7). -/
def defBpc : Int := 8
/-- `DEF_COLUMNS` (R13, R37, decision D7). -/
def defColumns : Int := 1
/-- `DEF_EARLYCHANGE` (R13, R37, decision D7). -/
def defEarlyChange : Int := 1

/-- `W85[n] = 85^(4-n)` for n in 0..4 (R14). -/
def w85 (n : Nat) : Nat := [52200625, 614125, 7225, 85, 1].getD n 0

/-- `LZW_CLEAR` (R14). -/
def lzwClear : Nat := 256
/-- `LZW_EOD` (R14). -/
def lzwEod : Nat := 257

/-- Free value: `FLATE_BUF - 1`. The spec leaves `FLATE_BUF`, a natural of at least 1, OPEN (R13, R186,
decision D21). -/
opaque flateBufPred : Nat

/-- `FLATE_BUF`, the most bytes one sink write of FLATE carries (R186 a). -/
def flateBuf : Nat := flateBufPred + 1

/-- Free value: `FLATE_CHUNK - 1`. The spec leaves `FLATE_CHUNK`, a natural of at least 1, OPEN (R13, R186,
decision D21). -/
opaque flateChunkPred : Nat

/-- `FLATE_CHUNK`, the most bytes offered to the compressor at once (R186). -/
def flateChunk : Nat := flateChunkPred + 1

/-- Free value: `SinkAccepts`, the environment's answer to write number `draw`, which offers `offered` to
sink `s` that has accepted `sofar` (R67, decision D5). Under no law: another draw number may answer
otherwise for the same bytes. -/
opaque sinkAccepts (draw : Nat) (s : SinkId) (sofar offered : Bytes) : Bool

/-- Free value: how many of the bytes still to be emitted write number `draw` offers (R68: the split of an
emission is the implementation's choice). `chunk` is `FLATE_CHUNK`, which R186 lets show in the split and
nowhere else. The emission brings the number into the range R68 and R186 allow. -/
opaque writeSize (chunk draw : Nat) (remaining : Bytes) : Nat

end Sys2Proof.Config

namespace Sys2Proof

/-- The parameters of R13 that reading a stream depends on. Every function that reads streams takes them as an
argument, whose default is the value R13 recommends (`Config.stream`). -/
structure StreamParameters where
  /-- `PARAM_WIDTH` (R36). -/
  paramWidth : Nat
  /-- `WS_HEX` (R136). -/
  wsHex : List Byte
  /-- Membership in `WS_A85` (R162). -/
  wsA85 : Byte → Bool
  /-- `DEF_PREDICTOR` (R37). -/
  defPredictor : Int
  /-- `DEF_COLORS` (R37). -/
  defColors : Int
  /-- `DEF_BPC` (R37). -/
  defBpc : Int
  /-- `DEF_COLUMNS` (R37). -/
  defColumns : Int
  /-- `DEF_EARLYCHANGE` (R37). -/
  defEarlyChange : Int

/-- The values that R13 recommends and every test vector uses. -/
def Config.stream : StreamParameters where
  paramWidth := Config.paramWidth
  wsHex := Config.wsHex
  wsA85 := Config.wsA85
  defPredictor := Config.defPredictor
  defColors := Config.defColors
  defBpc := Config.defBpc
  defColumns := Config.defColumns
  defEarlyChange := Config.defEarlyChange

end Sys2Proof
end

