-- ==== Sys2Proof/Syntax.lean ====
section
/-! DEFINITION. The instruction set: one constructor of `Instr` per row of spec/opcode_table.json. Level 1
are the twenty host commands and the reserved command byte (00_scope.md R4, 30_encoding.md R90 to R95);
level 2 are the symbols of the stream languages a decoder interprets (R5, R96 to R106). -/

namespace Sys2Proof

/-- The five codec units (R1, R91). -/
inductive UnitId where
  | hex | a85 | flate | rle | lzw
deriving DecidableEq, Repr

/-- The four operations every unit offers (R4, R91). -/
inductive Op where
  | beginEncode | encodeBlock | endEncode | decode
deriving DecidableEq, Repr

/-- `PARAMS`, the Decode Parameters record: each key absent or a signed integer (R36, decision D6). That an
integer has `PARAM_WIDTH` bits is `Params.fits` (WellFormed.lean), and the port carries no others
(`Params.onPort`, Decode.lean). -/
structure Params where
  predictor : Option Int
  colors : Option Int
  bitsPerComponent : Option Int
  columns : Option Int
  earlyChange : Option Int
deriving DecidableEq, Repr

/-- What the host presents at the command port: the command byte and the operands by value (R90 to R92,
decision D1). An operation reads only the operands R92 gives it. -/
structure CommandWord where
  cmd : Byte
  sink : SinkId
  input : Option Bytes
  params : Option Params
deriving DecidableEq, Repr

/-- One constructor per row of the opcode table. -/
inductive Instr where
  /-- `HEX.BEGIN_ENCODE s` (R130). -/
  | hexBeginEncode (sink : SinkId)
  /-- `HEX.ENCODE_BLOCK IN` (R131); `none` is an absent buffer (R61). -/
  | hexEncodeBlock (input : Option Bytes)
  /-- `HEX.END_ENCODE` (R133). -/
  | hexEndEncode
  /-- `HEX.DECODE IN [, PARAMS]` (R134). -/
  | hexDecode (input : Option Bytes) (params : Option Params)
  /-- `A85.BEGIN_ENCODE s` (R151). -/
  | a85BeginEncode (sink : SinkId)
  /-- `A85.ENCODE_BLOCK IN` (R153); `none` is an absent buffer (R61). -/
  | a85EncodeBlock (input : Option Bytes)
  /-- `A85.END_ENCODE` (R156). -/
  | a85EndEncode
  /-- `A85.DECODE IN [, PARAMS]` (R160). -/
  | a85Decode (input : Option Bytes) (params : Option Params)
  /-- `FLATE.BEGIN_ENCODE s` (R182). -/
  | flateBeginEncode (sink : SinkId)
  /-- `FLATE.ENCODE_BLOCK IN` (R185); `none` is an absent buffer (R61). -/
  | flateEncodeBlock (input : Option Bytes)
  /-- `FLATE.END_ENCODE` (R187). -/
  | flateEndEncode
  /-- `FLATE.DECODE IN [, PARAMS]` (R189). -/
  | flateDecode (input : Option Bytes) (params : Option Params)
  /-- `RLE.BEGIN_ENCODE s` (R241). -/
  | rleBeginEncode (sink : SinkId)
  /-- `RLE.ENCODE_BLOCK IN` (R241); `none` is an absent buffer (R61). -/
  | rleEncodeBlock (input : Option Bytes)
  /-- `RLE.END_ENCODE` (R241). -/
  | rleEndEncode
  /-- `RLE.DECODE IN [, PARAMS]` (R242). -/
  | rleDecode (input : Option Bytes) (params : Option Params)
  /-- `LZW.BEGIN_ENCODE s` (R261). -/
  | lzwBeginEncode (sink : SinkId)
  /-- `LZW.ENCODE_BLOCK IN` (R261); `none` is an absent buffer (R61). -/
  | lzwEncodeBlock (input : Option Bytes)
  /-- `LZW.END_ENCODE` (R261). -/
  | lzwEndEncode
  /-- `LZW.DECODE IN [, PARAMS]` (R262). -/
  | lzwDecode (input : Option Bytes) (params : Option Params)
  /-- A reserved command byte (R95). -/
  | reservedCommand (cmd : Byte)
  /-- hex.whitespace (R136). -/
  | hexWhitespace (c : Byte)
  /-- hex.digit.0-9, `0011vvvv` (R137). -/
  | hexDigit09 (v : BitVec 4)
  /-- hex.digit.A-F, `01000vvv` (R137). -/
  | hexDigitUpper (v : BitVec 3)
  /-- hex.digit.a-f, `01100vvv` (R137). -/
  | hexDigitLower (v : BitVec 3)
  /-- hex.illegal (R138). -/
  | hexIllegal (c : Byte)
  /-- hex.end-of-input, no byte (R139). -/
  | hexEndOfInput
  /-- a85.skip (R162). -/
  | a85Skip (c : Byte)
  /-- a85.digit (R163). -/
  | a85Digit (c : Byte)
  /-- a85.z (R164). -/
  | a85Z
  /-- a85.terminator, the lead byte '~' (R166). -/
  | a85Terminator
  /-- a85.illegal (R167). -/
  | a85Illegal (c : Byte)
  /-- a85.end-of-data, no byte (R168). -/
  | a85EndOfData
  /-- rle.literal, `0nnnnnnn` (R244). -/
  | rleLiteral (n : BitVec 7)
  /-- rle.eod (R245). -/
  | rleEod
  /-- rle.replicate, `1nnnnnnn` (R246). -/
  | rleReplicate (n : BitVec 7)
  /-- lzw.clear (R266). -/
  | lzwClear
  /-- lzw.eod (R274). -/
  | lzwEod
  /-- lzw.data.known (R267). -/
  | lzwKnown (code : BitVec 12)
  /-- lzw.data.not-yet-defined, KwKwK (R269). -/
  | lzwNotYetDefined (code : BitVec 12)
  /-- lzw.illegal (R268). -/
  | lzwIllegal (code : BitVec 12)
  /-- predictor.none, Predictor = 1 (R211). -/
  | predictorNone
  /-- predictor.tiff, Predictor = 2 (R214). -/
  | predictorTiff
  /-- predictor.png, Predictor >= 10 (R216). -/
  | predictorPng (value : Int)
  /-- predictor.undefined, Predictor <= 0 or 3..9 (R215). -/
  | predictorUndefined (value : Int)
  /-- png.tag.none, tag 0 (R217). -/
  | pngTagNone
  /-- png.tag.sub, tag 1 (R218). -/
  | pngTagSub
  /-- png.tag.up, tag 2 (R217). -/
  | pngTagUp
  /-- png.tag.average, tag 3 (R219). -/
  | pngTagAverage
  /-- png.tag.paeth, tag 4 (R220). -/
  | pngTagPaeth
  /-- png.tag.illegal, tag 5..255 (R221). -/
  | pngTagIllegal (tag : Byte)
  /-- zlib.header, the bytes CMF and FLG (R291). -/
  | zlibHeader (cmf flg : Byte)
  /-- deflate.block.stored, BTYPE = 0 (R294). -/
  | deflateBlockStored (bfinal : Bool)
  /-- deflate.block.fixed, BTYPE = 1 (R297). -/
  | deflateBlockFixed (bfinal : Bool)
  /-- deflate.block.dynamic, BTYPE = 2 (R298, R299). -/
  | deflateBlockDynamic (bfinal : Bool)
  /-- deflate.block.illegal, BTYPE = 3 (R293). -/
  | deflateBlockIllegal (bfinal : Bool)
  /-- deflate.codelen.0-15, a literal code length (R300). -/
  | deflateCodelenLiteral (len : BitVec 4)
  /-- deflate.codelen.16, repeat the previous length (R300). -/
  | deflateCodelen16
  /-- deflate.codelen.17, a short run of zeros (R300). -/
  | deflateCodelen17
  /-- deflate.codelen.18, a long run of zeros (R300). -/
  | deflateCodelen18
  /-- deflate.sym.literal, symbol 0..255 (R303). -/
  | deflateSymLiteral (b : Byte)
  /-- deflate.sym.end-of-block, symbol 256 (R304). -/
  | deflateSymEndOfBlock
  /-- deflate.sym.length, symbol 257..285 (R305). -/
  | deflateSymLength (sym : BitVec 9)
  /-- deflate.sym.distance, distance symbol 0..29 (R306, R309). -/
  | deflateSymDistance (sym : BitVec 5)
  /-- deflate.sym.illegal: literal/length symbol 286 or 287, distance symbol 30 or 31 (R307). -/
  | deflateSymIllegal (sym : BitVec 9)
  /-- zlib.trailer, the stored Adler-32 (R310). -/
  | zlibTrailer (adler : BitVec 32)
deriving DecidableEq, Repr

end Sys2Proof
end

