-- ==== Sys2Proof/WellFormed.lean ====
section
/-! DEFINITION. Which operands an instruction can have: the operand ranges of spec/opcode_table.json and of
30_encoding.md R91 to R107 that the operand's type does not already say. -/

namespace Sys2Proof

/-- The unit field of a command byte, bits 7:4 (R91). -/
def unitField (cmd : Byte) : BitVec 4 := cmd.extractLsb' 4 4
/-- The zero field of a command byte, bits 3:2 (R91). -/
def zeroField (cmd : Byte) : BitVec 2 := cmd.extractLsb' 2 2

/-- A command byte outside the twenty of R94 (R95). -/
def isReservedByte (cmd : Byte) : Bool := 5 ≤ (unitField cmd).toNat || zeroField cmd != 0

/-- A hex digit byte of R96, either case. -/
def isHexDigit (c : Byte) : Bool :=
  (0x30 ≤ c.toNat && c.toNat ≤ 0x39) || (0x41 ≤ c.toNat && c.toNat ≤ 0x46)
    || (0x61 ≤ c.toNat && c.toNat ≤ 0x66)

/-- A byte of the digit class of R98. -/
def isA85Digit (c : Byte) : Bool := 0x21 ≤ c.toNat && c.toNat ≤ 0x75

/-- The class 'undefined' of R104: Predictor <= 0 or 3..9. -/
def isUndefinedPredictor (v : Int) : Bool := v ≤ 0 || (3 ≤ v && v ≤ 9)

/-- The integers of `width` bits in two's complement (R13, R36): -2^(width-1) to 2^(width-1) - 1. -/
def fitsWidth (width : Nat) (v : Int) : Bool := -(2 ^ width : Int) ≤ 2 * v && 2 * v < (2 ^ width : Int)

/-- Every key that is present has an integer of `PARAM_WIDTH` bits (R36). -/
def Params.fits (p : Params) (P : StreamParameters := Config.stream) : Bool :=
  p.predictor.all (fitsWidth P.paramWidth) && p.colors.all (fitsWidth P.paramWidth)
    && p.bitsPerComponent.all (fitsWidth P.paramWidth) && p.columns.all (fitsWidth P.paramWidth)
    && p.earlyChange.all (fitsWidth P.paramWidth)

/-- The operands an instruction may have, for the whitespace sets and `PARAM_WIDTH` of `P`. -/
def Instr.wf (i : Instr) (P : StreamParameters := Config.stream) : Bool :=
  match i with
  | .hexBeginEncode _ | .hexEncodeBlock _ | .hexEndEncode => true
  | .a85BeginEncode _ | .a85EncodeBlock _ | .a85EndEncode => true
  | .flateBeginEncode _ | .flateEncodeBlock _ | .flateEndEncode => true
  | .rleBeginEncode _ | .rleEncodeBlock _ | .rleEndEncode => true
  | .lzwBeginEncode _ | .lzwEncodeBlock _ | .lzwEndEncode => true
  | .hexDecode _ p | .a85Decode _ p | .flateDecode _ p | .rleDecode _ p | .lzwDecode _ p => p.all (·.fits P)
  | .reservedCommand cmd => isReservedByte cmd
  | .hexWhitespace c => P.wsHex.contains c
  | .hexDigit09 v => v.toNat ≤ 9
  | .hexDigitUpper v => 1 ≤ v.toNat && v.toNat ≤ 6
  | .hexDigitLower v => 1 ≤ v.toNat && v.toNat ≤ 6
  | .hexIllegal c => !P.wsHex.contains c && !isHexDigit c
  | .hexEndOfInput => true
  | .a85Skip c => P.wsA85 c
  | .a85Digit c => isA85Digit c
  | .a85Z | .a85Terminator | .a85EndOfData => true
  | .a85Illegal c => !P.wsA85 c && !isA85Digit c && c != 0x7A && c != 0x7E
  | .rleLiteral _ | .rleEod => true
  | .rleReplicate n => n != 0
  | .lzwClear | .lzwEod => true
  | .lzwKnown code => code.toNat != 256 && code.toNat != 257
  | .lzwNotYetDefined code => 258 ≤ code.toNat
  | .lzwIllegal code => 258 ≤ code.toNat
  | .predictorNone => fitsWidth P.paramWidth 1
  | .predictorTiff => fitsWidth P.paramWidth 2
  | .predictorPng v => 10 ≤ v && fitsWidth P.paramWidth v
  | .predictorUndefined v => isUndefinedPredictor v && fitsWidth P.paramWidth v
  | .pngTagNone | .pngTagSub | .pngTagUp | .pngTagAverage | .pngTagPaeth => true
  | .pngTagIllegal t => 5 ≤ t.toNat
  | .zlibHeader _ _ => true
  | .deflateBlockStored _ | .deflateBlockFixed _ => true
  | .deflateBlockDynamic _ | .deflateBlockIllegal _ => true
  | .deflateCodelenLiteral _ | .deflateCodelen16 | .deflateCodelen17 | .deflateCodelen18 => true
  | .deflateSymLiteral _ | .deflateSymEndOfBlock => true
  | .deflateSymLength s => 257 ≤ s.toNat && s.toNat ≤ 285
  | .deflateSymDistance d => d.toNat ≤ 29
  | .deflateSymIllegal s => s.toNat == 286 || s.toNat == 287 || s.toNat == 30 || s.toNat == 31
  | .zlibTrailer _ => true

end Sys2Proof
end

