-- ==== Sys2Proof/Decode.lean ====
section
/-! DEFINITION. From bits to instructions and back: the command word (30_encoding.md R91 to R95) and the
symbol classes of every stream language (R96 to R106), then the encoder, then the host's
`decodeTableWord`. Nothing here reads machine state except the LZW table size and whether a previous code
exists, which R102 makes part of a code's class. -/

namespace Sys2Proof

/-! ## Level 1: the command word -/

/-- Bits 7:4 of a command byte as a unit, `none` for 5..15 (R91). -/
def cmdUnit (cmd : Byte) : Option UnitId :=
  match cmd.toNat / 16 with
  | 0 => some .hex
  | 1 => some .a85
  | 2 => some .flate
  | 3 => some .rle
  | 4 => some .lzw
  | _ => none

/-- Bits 3:2 of a command byte (R91). -/
def cmdZero (cmd : Byte) : Nat := cmd.toNat / 4 % 4

/-- Bits 1:0 of a command byte as an operation (R91). -/
def cmdOp (cmd : Byte) : Op :=
  match cmd.toNat % 4 with
  | 0 => .beginEncode
  | 1 => .encodeBlock
  | 2 => .endEncode
  | _ => .decode

/-- The instruction of a unit and an operation with the operands R92 gives the operation. -/
def commandInstr (u : UnitId) (o : Op) (c : CommandWord) : Instr :=
  match u, o with
  | .hex, .beginEncode => .hexBeginEncode c.sink
  | .hex, .encodeBlock => .hexEncodeBlock c.input
  | .hex, .endEncode => .hexEndEncode
  | .hex, .decode => .hexDecode c.input c.params
  | .a85, .beginEncode => .a85BeginEncode c.sink
  | .a85, .encodeBlock => .a85EncodeBlock c.input
  | .a85, .endEncode => .a85EndEncode
  | .a85, .decode => .a85Decode c.input c.params
  | .flate, .beginEncode => .flateBeginEncode c.sink
  | .flate, .encodeBlock => .flateEncodeBlock c.input
  | .flate, .endEncode => .flateEndEncode
  | .flate, .decode => .flateDecode c.input c.params
  | .rle, .beginEncode => .rleBeginEncode c.sink
  | .rle, .encodeBlock => .rleEncodeBlock c.input
  | .rle, .endEncode => .rleEndEncode
  | .rle, .decode => .rleDecode c.input c.params
  | .lzw, .beginEncode => .lzwBeginEncode c.sink
  | .lzw, .encodeBlock => .lzwEncodeBlock c.input
  | .lzw, .endEncode => .lzwEndEncode
  | .lzw, .decode => .lzwDecode c.input c.params

/-- The integer whose two's complement of `width` bits is the low `width` bits of `v` (R13, R36). -/
def twosComplement (width : Nat) (v : Int) : Int :=
  if 2 * (v % 2 ^ width) < 2 ^ width then v % 2 ^ width else v % 2 ^ width - 2 ^ width

/-- The record as the parameter port carries it: each integer is the one that its `PARAM_WIDTH` bits stand for
(R36, R92). A record that fits the port (`Params.fits`) is carried as it is. -/
def Params.onPort (p : Params) (P : StreamParameters := Config.stream) : Params where
  predictor := p.predictor.map (twosComplement P.paramWidth)
  colors := p.colors.map (twosComplement P.paramWidth)
  bitsPerComponent := p.bitsPerComponent.map (twosComplement P.paramWidth)
  columns := p.columns.map (twosComplement P.paramWidth)
  earlyChange := p.earlyChange.map (twosComplement P.paramWidth)

/-- The instruction a command word stands for, for `PARAM_WIDTH` of `P`; every byte outside the twenty of R94 is
the reserved command (R95). -/
def decodeCommand (c : CommandWord) (P : StreamParameters := Config.stream) : Instr :=
  match cmdUnit c.cmd with
  | none => .reservedCommand c.cmd
  | some u =>
    if cmdZero c.cmd = 0 then commandInstr u (cmdOp c.cmd) { c with params := c.params.map (·.onPort P) }
    else .reservedCommand c.cmd

/-! ## Level 2: the symbol classes -/

/-- The class of a byte of a hex stream (R96), checked in the order of R96, for `WS_HEX` of `P`. -/
def decodeHexChar (c : Byte) (P : StreamParameters := Config.stream) : Instr :=
  if P.wsHex.contains c then .hexWhitespace c
  else if 0x30 ≤ c.toNat ∧ c.toNat ≤ 0x39 then .hexDigit09 (c.extractLsb' 0 4)
  else if 0x41 ≤ c.toNat ∧ c.toNat ≤ 0x46 then .hexDigitUpper (c.extractLsb' 0 3)
  else if 0x61 ≤ c.toNat ∧ c.toNat ≤ 0x66 then .hexDigitLower (c.extractLsb' 0 3)
  else .hexIllegal c

/-- The class of a byte of an Ascii85 stream (R98), checked in the order of R98, for `WS_A85` of `P`. -/
def decodeA85Char (c : Byte) (P : StreamParameters := Config.stream) : Instr :=
  if P.wsA85 c then .a85Skip c
  else if 0x21 ≤ c.toNat ∧ c.toNat ≤ 0x75 then .a85Digit c
  else if c = 0x7A then .a85Z
  else if c = 0x7E then .a85Terminator
  else .a85Illegal c

/-- The class of an RLE control byte (R101, R243). -/
def decodeRleControl (c : Byte) : Instr :=
  if c.toNat ≤ 127 then .rleLiteral (c.extractLsb' 0 7)
  else if c = 0x80 then .rleEod
  else .rleReplicate (c.extractLsb' 0 7)

/-- The class of an LZW code while the table has `size` entries (R102, R265, R268): the clear and
end-of-data codes are tested before the table. -/
def decodeLzwCode (size : Nat) (hasPrev : Bool) (code : BitVec 12) : Instr :=
  if code.toNat = Config.lzwClear then .lzwClear
  else if code.toNat = Config.lzwEod then .lzwEod
  else if code.toNat < size then .lzwKnown code
  else if code.toNat = size ∧ hasPrev then .lzwNotYetDefined code
  else .lzwIllegal code

/-- The class of a Predictor value (R104, R210). -/
def decodePredictor (v : Int) : Instr :=
  if v = 1 then .predictorNone
  else if v = 2 then .predictorTiff
  else if v < 10 then .predictorUndefined v
  else .predictorPng v

/-- The class of a PNG row tag (R105). -/
def decodePngTag (t : Byte) : Instr :=
  match t.toNat with
  | 0 => .pngTagNone
  | 1 => .pngTagSub
  | 2 => .pngTagUp
  | 3 => .pngTagAverage
  | 4 => .pngTagPaeth
  | _ => .pngTagIllegal t

/-- A DEFLATE block header, the three bits BFINAL and BTYPE (R293). -/
def decodeBlockHeader (bfinal : Bool) (btype : Nat) : Instr :=
  match btype with
  | 0 => .deflateBlockStored bfinal
  | 1 => .deflateBlockFixed bfinal
  | 2 => .deflateBlockDynamic bfinal
  | _ => .deflateBlockIllegal bfinal

/-- A symbol of the code-length alphabet (R300); `none` outside 0..18. -/
def decodeCodelen (sym : Nat) : Option Instr :=
  if sym ≤ 15 then some (.deflateCodelenLiteral (BitVec.ofNat 4 sym))
  else match sym with
    | 16 => some .deflateCodelen16
    | 17 => some .deflateCodelen17
    | 18 => some .deflateCodelen18
    | _ => none

/-- A symbol of the literal/length alphabet (R302 to R307); `none` outside 0..287. -/
def decodeLitLen (sym : Nat) : Option Instr :=
  if sym < 256 then some (.deflateSymLiteral (BitVec.ofNat 8 sym))
  else if sym = 256 then some .deflateSymEndOfBlock
  else if sym ≤ 285 then some (.deflateSymLength (BitVec.ofNat 9 sym))
  else if sym ≤ 287 then some (.deflateSymIllegal (BitVec.ofNat 9 sym))
  else none

/-- A symbol of the distance alphabet (R306, R307); `none` outside 0..31. -/
def decodeDistance (sym : Nat) : Option Instr :=
  if sym ≤ 29 then some (.deflateSymDistance (BitVec.ofNat 5 sym))
  else if sym ≤ 31 then some (.deflateSymIllegal (BitVec.ofNat 9 sym))
  else none

/-- Four bytes, most significant first, as the stored checksum (R310). -/
def decodeTrailer (b0 b1 b2 b3 : Byte) : Instr := .zlibTrailer (b0 ++ b1 ++ b2 ++ b3)

/-! ## One decoder over every format -/

/-- The formats of spec/opcode_table.json; DEFLATESYM is two alphabets (R302). -/
inductive Format where
  | cmd | hexChar | a85Char | rleCtl | lzwCode | predictor | pngRow | zlibHdr | deflateBlk
  | deflateCl | deflateLitLen | deflateDist | zlibTrl
deriving DecidableEq, Repr

/-- The words of one instruction: a command word, the value of a symbol with bit 0 the least significant
bit of its first byte, or no byte at all (the two end-of-data rows). -/
inductive Encoded where
  | command (w : CommandWord)
  | symbol (value : Nat)
  | noByte
deriving DecidableEq, Repr

/-- Why words stand for no instruction of a format. -/
inductive DecodeError where
  /-- The words are of another kind than the format's. Safe: nothing is decoded. -/
  | wrongKind
  /-- The value does not fit the format's width or alphabet. Safe: nothing is decoded. -/
  | outOfRange
deriving DecidableEq, Repr

/-- What of the decoder state a symbol's class depends on (R102): the table size and whether a previous
data code exists. -/
structure SymbolContext where
  tableSize : Nat
  hasPrev : Bool
deriving DecidableEq, Repr

/-- An optional answer with the error that stands for its absence. -/
def orOutOfRange : Option Instr → Except DecodeError Instr
  | some i => .ok i
  | none => .error .outOfRange

/-- A decoded value that must lie below a bound. -/
def decodeBelow (bound value : Nat) (i : Instr) : Except DecodeError Instr :=
  if value < bound then .ok i else .error .outOfRange

/-- The instruction that words stand for in a format, for the whitespace sets and `PARAM_WIDTH` of `P`; total on
any words. -/
def decode (ctx : SymbolContext) (f : Format) (e : Encoded) (P : StreamParameters := Config.stream) :
    Except DecodeError Instr :=
  match f, e with
  | .cmd, .command w => .ok (decodeCommand w P)
  | .hexChar, .noByte => .ok .hexEndOfInput
  | .a85Char, .noByte => .ok .a85EndOfData
  | .hexChar, .symbol v => decodeBelow 256 v (decodeHexChar (BitVec.ofNat 8 v) P)
  | .a85Char, .symbol v => decodeBelow 256 v (decodeA85Char (BitVec.ofNat 8 v) P)
  | .rleCtl, .symbol v => decodeBelow 256 v (decodeRleControl (BitVec.ofNat 8 v))
  | .lzwCode, .symbol v =>
    decodeBelow 4096 v (decodeLzwCode ctx.tableSize ctx.hasPrev (BitVec.ofNat 12 v))
  | .predictor, .symbol v =>
    decodeBelow (2 ^ P.paramWidth) v (decodePredictor (twosComplement P.paramWidth v))
  | .pngRow, .symbol v => decodeBelow 256 v (decodePngTag (BitVec.ofNat 8 v))
  | .zlibHdr, .symbol v =>
    decodeBelow 65536 v (.zlibHeader (BitVec.ofNat 8 v) (BitVec.ofNat 8 (v / 256)))
  | .deflateBlk, .symbol v => decodeBelow 8 v (decodeBlockHeader (v % 2 == 1) (v / 2))
  | .deflateCl, .symbol v => orOutOfRange (decodeCodelen v)
  | .deflateLitLen, .symbol v => orOutOfRange (decodeLitLen v)
  | .deflateDist, .symbol v => orOutOfRange (decodeDistance v)
  | .zlibTrl, .symbol v =>
    decodeBelow 4294967296 v (decodeTrailer (BitVec.ofNat 8 v) (BitVec.ofNat 8 (v / 256))
      (BitVec.ofNat 8 (v / 65536)) (BitVec.ofNat 8 (v / 16777216)))
  | _, _ => .error .wrongKind

/-! ## The encoder -/

/-- The number of a unit in the command byte (R91). -/
def unitCode : UnitId → Nat
  | .hex => 0 | .a85 => 1 | .flate => 2 | .rle => 3 | .lzw => 4

/-- The number of an operation in the command byte (R91). -/
def opCode : Op → Nat
  | .beginEncode => 0 | .encodeBlock => 1 | .endEncode => 2 | .decode => 3

/-- `cmd = unit * 16 + op` (R91). -/
def cmdByte (u : UnitId) (o : Op) : Byte := BitVec.ofNat 8 (unitCode u * 16 + opCode o)

/-- A command word of an operation with a sink operand. -/
def cmdWithSink (u : UnitId) (s : SinkId) : Encoded := .command ⟨cmdByte u .beginEncode, s, none, none⟩
/-- A command word of an operation with an input operand. -/
def cmdWithInput (u : UnitId) (b : Option Bytes) : Encoded :=
  .command ⟨cmdByte u .encodeBlock, 0, b, none⟩
/-- A command word of `END_ENCODE`. -/
def cmdAlone (u : UnitId) : Encoded := .command ⟨cmdByte u .endEncode, 0, none, none⟩
/-- A command word of `DECODE`. -/
def cmdWithParams (u : UnitId) (b : Option Bytes) (p : Option Params) : Encoded :=
  .command ⟨cmdByte u .decode, 0, b, p⟩

/-- The low `width` bits of `v` as a number, its two's complement where it fits (R13, R36). -/
def paramBits (width : Nat) (v : Int) : Nat := (v % 2 ^ width).toNat

/-- The format and the words of an instruction (R91 to R106 and R291 to R310), for `PARAM_WIDTH` of `P`. -/
def encode (i : Instr) (P : StreamParameters := Config.stream) : Format × Encoded :=
  match i with
  | .hexBeginEncode s => (.cmd, cmdWithSink .hex s)
  | .hexEncodeBlock b => (.cmd, cmdWithInput .hex b)
  | .hexEndEncode => (.cmd, cmdAlone .hex)
  | .hexDecode b p => (.cmd, cmdWithParams .hex b p)
  | .a85BeginEncode s => (.cmd, cmdWithSink .a85 s)
  | .a85EncodeBlock b => (.cmd, cmdWithInput .a85 b)
  | .a85EndEncode => (.cmd, cmdAlone .a85)
  | .a85Decode b p => (.cmd, cmdWithParams .a85 b p)
  | .flateBeginEncode s => (.cmd, cmdWithSink .flate s)
  | .flateEncodeBlock b => (.cmd, cmdWithInput .flate b)
  | .flateEndEncode => (.cmd, cmdAlone .flate)
  | .flateDecode b p => (.cmd, cmdWithParams .flate b p)
  | .rleBeginEncode s => (.cmd, cmdWithSink .rle s)
  | .rleEncodeBlock b => (.cmd, cmdWithInput .rle b)
  | .rleEndEncode => (.cmd, cmdAlone .rle)
  | .rleDecode b p => (.cmd, cmdWithParams .rle b p)
  | .lzwBeginEncode s => (.cmd, cmdWithSink .lzw s)
  | .lzwEncodeBlock b => (.cmd, cmdWithInput .lzw b)
  | .lzwEndEncode => (.cmd, cmdAlone .lzw)
  | .lzwDecode b p => (.cmd, cmdWithParams .lzw b p)
  | .reservedCommand c => (.cmd, .command ⟨c, 0, none, none⟩)
  | .hexWhitespace c => (.hexChar, .symbol c.toNat)
  | .hexDigit09 v => (.hexChar, .symbol (0x30 + v.toNat))
  | .hexDigitUpper v => (.hexChar, .symbol (0x40 + v.toNat))
  | .hexDigitLower v => (.hexChar, .symbol (0x60 + v.toNat))
  | .hexIllegal c => (.hexChar, .symbol c.toNat)
  | .hexEndOfInput => (.hexChar, .noByte)
  | .a85Skip c => (.a85Char, .symbol c.toNat)
  | .a85Digit c => (.a85Char, .symbol c.toNat)
  | .a85Z => (.a85Char, .symbol 0x7A)
  | .a85Terminator => (.a85Char, .symbol 0x7E)
  | .a85Illegal c => (.a85Char, .symbol c.toNat)
  | .a85EndOfData => (.a85Char, .noByte)
  | .rleLiteral n => (.rleCtl, .symbol n.toNat)
  | .rleEod => (.rleCtl, .symbol 0x80)
  | .rleReplicate n => (.rleCtl, .symbol (0x80 + n.toNat))
  | .lzwClear => (.lzwCode, .symbol 256)
  | .lzwEod => (.lzwCode, .symbol 257)
  | .lzwKnown c => (.lzwCode, .symbol c.toNat)
  | .lzwNotYetDefined c => (.lzwCode, .symbol c.toNat)
  | .lzwIllegal c => (.lzwCode, .symbol c.toNat)
  | .predictorNone => (.predictor, .symbol 1)
  | .predictorTiff => (.predictor, .symbol 2)
  | .predictorPng v => (.predictor, .symbol (paramBits P.paramWidth v))
  | .predictorUndefined v => (.predictor, .symbol (paramBits P.paramWidth v))
  | .pngTagNone => (.pngRow, .symbol 0)
  | .pngTagSub => (.pngRow, .symbol 1)
  | .pngTagUp => (.pngRow, .symbol 2)
  | .pngTagAverage => (.pngRow, .symbol 3)
  | .pngTagPaeth => (.pngRow, .symbol 4)
  | .pngTagIllegal t => (.pngRow, .symbol t.toNat)
  | .zlibHeader cmf flg => (.zlibHdr, .symbol (cmf.toNat + 256 * flg.toNat))
  | .deflateBlockStored f => (.deflateBlk, .symbol f.toNat)
  | .deflateBlockFixed f => (.deflateBlk, .symbol (2 + f.toNat))
  | .deflateBlockDynamic f => (.deflateBlk, .symbol (4 + f.toNat))
  | .deflateBlockIllegal f => (.deflateBlk, .symbol (6 + f.toNat))
  | .deflateCodelenLiteral l => (.deflateCl, .symbol l.toNat)
  | .deflateCodelen16 => (.deflateCl, .symbol 16)
  | .deflateCodelen17 => (.deflateCl, .symbol 17)
  | .deflateCodelen18 => (.deflateCl, .symbol 18)
  | .deflateSymLiteral b => (.deflateLitLen, .symbol b.toNat)
  | .deflateSymEndOfBlock => (.deflateLitLen, .symbol 256)
  | .deflateSymLength s => (.deflateLitLen, .symbol s.toNat)
  | .deflateSymDistance d => (.deflateDist, .symbol d.toNat)
  | .deflateSymIllegal s =>
    (if 286 ≤ s.toNat then .deflateLitLen else .deflateDist, .symbol s.toNat)
  | .zlibTrailer a =>
    (.zlibTrl, .symbol (a.toNat / 16777216 + 256 * (a.toNat / 65536 % 256)
      + 65536 * (a.toNat / 256 % 256) + 16777216 * (a.toNat % 256)))

/-- The decoder state in which an LZW code is of its instruction's class (R102); every other class is
read from the bits alone. -/
def Instr.fits (ctx : SymbolContext) : Instr → Bool
  | .lzwKnown c => c.toNat < ctx.tableSize
  | .lzwNotYetDefined c => c.toNat == ctx.tableSize && ctx.hasPrev
  | .lzwIllegal c => ctx.tableSize < c.toNat || (c.toNat == ctx.tableSize && !ctx.hasPrev)
  | _ => true

/-! ## The table's words

spec/opcode_table.json gives the same bits in several languages (0x00 is `HEX.BEGIN_ENCODE`, an RLE
literal and the PNG tag None), and a word alone does not say which language is read. The convention
(notes/assumptions/12.md) is the order of the table: a byte is a command where R94 defines one, else a hex
character, an Ascii85 character or an RLE control byte, whichever first has it as a legal symbol; a
16-bit word is an LZW code where it has at most 12 bits, else a zlib header; a 32-bit word is a Predictor
value. -/

/-- The decoder state an LZW code of the table is read in: the baseline table, no previous code (R262). -/
def freshContext : SymbolContext := ⟨258, false⟩

/-- The language in which a word of the table is read. -/
def tableFormat (nbits w : Nat) : Option Format :=
  if nbits ≤ 8 then
    let c := BitVec.ofNat 8 w
    if !isReservedByte c then some .cmd
    else if Config.wsHex.contains c || isHexDigit c then some .hexChar
    else if Config.wsA85 c || isA85Digit c || c == 0x7A || c == 0x7E then some .a85Char
    else if 0x80 ≤ c.toNat then some .rleCtl
    else some .cmd
  else if nbits ≤ 16 then
    if w < 4096 then some .lzwCode else some .zlibHdr
  else if nbits ≤ 32 then some .predictor
  else none

/-- The command word of a command byte whose operand bits are all 0: the null sink, absent `IN`, absent
`PARAMS` (R92). -/
def bareCommand (w : Nat) : CommandWord := ⟨BitVec.ofNat 8 w, 0, none, none⟩

/-- The words of an instruction whose table bits are `w`. -/
def tableEncoded (f : Format) (w : Nat) : Encoded :=
  match f with
  | .cmd => .command (bareCommand w)
  | .hexChar | .a85Char | .rleCtl | .pngRow => .symbol (w % 256)
  | .lzwCode => .symbol (w % 4096)
  | .zlibHdr => .symbol (w % 65536)
  | .predictor => .symbol (w % 2 ^ Config.paramWidth)
  | .zlibTrl => .symbol (w % 4294967296)
  | .deflateBlk | .deflateCl | .deflateLitLen | .deflateDist => .symbol w

/-- The instruction the decoder reads from a word of the opcode table. -/
def decodeTableWord (nbits w : Nat) : Option Instr :=
  match tableFormat nbits w with
  | none => none
  | some f =>
    match decode freshContext f (tableEncoded f w) with
    | .ok i => some i
    | .error _ => none

end Sys2Proof
end

