-- ==== Sys2Proof/Machine/Work.lean ====
section
/-! DEFINITION. The transient registers of a running `DECODE` command (10_state.md R24 to R42), the status
codes (60_exceptions.md R341), and what one stream symbol can lead to. -/

namespace Sys2Proof.Machine

/-- `STATUS`: OK and the nine error kinds (R341). -/
inductive Status where
  | ok
  | invalidState
  | invalidArgument
  | invalidHandle
  | outOfMemory
  | valueOutOfRange
  | invalidPredictor
  | unsupportedOperation
  | decompressionError
  | sinkFailure
deriving DecidableEq, Repr

/-- One code of a canonical Huffman code: its number of bits, its value, its symbol (R295). -/
structure HuffEntry where
  len : Nat
  code : Nat
  sym : Nat
deriving DecidableEq, Repr

/-- A canonical Huffman code as the list of its codes (R295). -/
abbrev HuffCode := List HuffEntry

/-- Which stream language the running `DECODE` reads next; `idle` when no command is running. -/
inductive Phase where
  | idle
  | hex
  | a85
  /-- An Ascii85 terminator has been read (R166). -/
  | a85End
  | rle
  | lzw
  /-- The zlib header is next (R291). -/
  | zlibHeader
  /-- A DEFLATE block header is next (R293). -/
  | blockHeader
  /-- A code-length symbol is next (R300). -/
  | codeLengths
  /-- A literal/length symbol is next (R302). -/
  | data
  /-- A distance symbol is next (R302). -/
  | distance
  /-- The zlib trailer is next (R310). -/
  | trailer
  /-- The Predictor value is dispatched next (R210). -/
  | predictor
  /-- A PNG row is next (R216). -/
  | png
deriving DecidableEq, Repr

/-- The transient registers of `LZW.DECODE` (R34, R40). -/
structure LzwRegs where
  /-- `bp`: the bit cursor (R25). -/
  bp : Nat
  /-- `LZW.codeLength` (R34). -/
  codeLength : Nat
  /-- `LZW.prev` (R34). -/
  prev : Option (BitVec 12)
  /-- `LZW.char` (R34). -/
  char : Byte
  /-- `LZW.table` from index 258 on; the 258 baseline entries never change (R40). -/
  learned : List Bytes
deriving DecidableEq, Repr

/-- The transient registers of inflate (R31). -/
structure InflateRegs where
  /-- The DEFLATE bit cursor, counted from `B[2]` (R292). -/
  bitPos : Nat
  /-- BFINAL of the current block (R293). -/
  bfinal : Bool
  /-- `HLIT + 257` of the current dynamic block (R298). -/
  nLit : Nat
  /-- `HDIST + 1` of the current dynamic block (R298). -/
  nDist : Nat
  /-- The code lengths produced so far (R300). -/
  lens : List Nat
  /-- The code-length code (R299). -/
  clCode : HuffCode
  /-- The literal/length code of the current block (R297, R300). -/
  litCode : HuffCode
  /-- The distance code of the current block (R297, R300). -/
  distCode : HuffCode
  /-- `L`: the length of the open back-reference (R302). -/
  copyLen : Nat
  /-- `INFL` (R63). -/
  infl : Bytes
deriving DecidableEq, Repr

/-- The transient registers of predictor reversal (R32, R42). -/
structure PredictorRegs where
  /-- `predictor` after defaulting (R37). -/
  predictor : Int
  /-- `colors` after defaulting; read and used by no computation (R213). -/
  colors : Int
  /-- `bpc` after defaulting (R37). -/
  bpc : Int
  /-- `columns` after defaulting (R37). -/
  columns : Int
  /-- `earlyChange` after defaulting; read and used by no computation (R213). -/
  earlyChange : Int
  /-- `rowBytes` (R38). -/
  rowBytes : Nat
  /-- `prev`: the row history (R42), `rowBytes` bytes; those past the list's end hold the zero they are
  seeded with. -/
  prev : Bytes
  /-- `cur`: the row being reconstructed (R32). -/
  cur : Bytes
  /-- `tag`: the current row's tag (R32). -/
  tag : Byte
  /-- `col`: the next byte of the row (R32). -/
  col : Nat
deriving DecidableEq, Repr

/-- The transient registers. They exist while a `DECODE` runs and are at their idle values otherwise
(R20, R46, R350). -/
structure Work where
  /-- The stream language read next. -/
  phase : Phase
  /-- `IN` (R61). -/
  input : Bytes
  /-- `PARAMS` (R36). -/
  params : Option Params
  /-- `ip`: the index of the next unread byte; over `INFL` in predictor reversal (R24). -/
  ip : Nat
  /-- `OUT` (R62). -/
  out : Bytes
  /-- `hi`: the high digit of an open hex pair (R26). -/
  hi : Option (BitVec 4)
  /-- `acc`: the Ascii85 tuple being accumulated (R29). -/
  acc : Nat
  /-- `n`: the digits of the open Ascii85 group (R29). -/
  n : Nat
  /-- The LZW registers (R34). -/
  lzw : LzwRegs
  /-- The inflate registers (R31). -/
  inf : InflateRegs
  /-- The predictor registers (R32). -/
  pred : PredictorRegs
deriving DecidableEq, Repr

/-- The LZW registers at the start of `LZW.DECODE` (R262): the baseline table, 9-bit codes, no previous
code. -/
def LzwRegs.start : LzwRegs where
  bp := 0
  codeLength := 9
  prev := none
  char := 0
  learned := []

/-- The inflate registers before a stream is read (R290). -/
def InflateRegs.start : InflateRegs where
  bitPos := 0
  bfinal := false
  nLit := 0
  nDist := 0
  lens := []
  clCode := []
  litCode := []
  distCode := []
  copyLen := 0
  infl := []

/-- The predictor registers before `PARAMS` is read (R37). -/
def PredictorRegs.start : PredictorRegs where
  predictor := Config.defPredictor
  colors := Config.defColors
  bpc := Config.defBpc
  columns := Config.defColumns
  earlyChange := Config.defEarlyChange
  rowBytes := 0
  prev := []
  cur := []
  tag := 0
  col := 0

/-- No command is running. -/
def Work.idle : Work where
  phase := .idle
  input := []
  params := none
  ip := 0
  out := []
  hi := none
  acc := 0
  n := 0
  lzw := .start
  inf := .start
  pred := .start

/-- What one step of a decode loop leads to. -/
inductive Progress where
  /-- The command goes on with these registers. -/
  | running (w : Work)
  /-- The command ends with `OK` and delivers `w.out` (`return` of R17). -/
  | done (w : Work)
  /-- The command ends with a fault (`raise E` of R17). -/
  | raised (e : Status)
deriving DecidableEq, Repr

end Sys2Proof.Machine
end

