-- ==== Sys2Proof/Machine/Bits.lean ====
section
/-! DEFINITION. Bit and byte order (20_memory.md R69 to R72): the two bit readers and the big-endian
unpacking of a 32-bit tuple. -/

namespace Sys2Proof.Machine

/-- The four bytes of a 32-bit tuple, most significant first (R70). -/
def unpack32 (t : Nat) : Bytes :=
  [BitVec.ofNat 8 (t / 16777216), BitVec.ofNat 8 (t / 65536), BitVec.ofNat 8 (t / 256), BitVec.ofNat 8 t]

/-- Bit `k` of an LZW stream: bit `7 - k mod 8` of byte `k div 8` (R71); 0 past the end, which no rule
reads. -/
def msbBit (bs : Bytes) (k : Nat) : Bool := (bs.getD (k / 8) 0).getLsbD (7 - k % 8)

/-- `w` bits of an LZW stream from bit cursor `bp`, most significant bit first, after the bits in `acc`
(R71, R264). -/
def readMsb (bs : Bytes) (bp : Nat) : Nat → Nat → Nat
  | 0, acc => acc
  | w + 1, acc => readMsb bs (bp + 1) w (2 * acc + (msbBit bs bp).toNat)

/-- Bit `k` of the DEFLATE data: bit `k mod 8` of byte `B[2 + k div 8]` (R292); `none` past the end. -/
def lsbBit (bs : Bytes) (k : Nat) : Option Bool := (bs[2 + k / 8]?).map (fun b => b.getLsbD (k % 8))

/-- `bits(n)`: n bits of the DEFLATE data from bit `k` on, the first the least significant (R292);
`none` where the input ends first (R312 case 8). -/
def readLsb (bs : Bytes) (k : Nat) : Nat → Option Nat
  | 0 => some 0
  | n + 1 =>
    match lsbBit bs k, readLsb bs (k + 1) n with
    | some b, some r => some (b.toNat + 2 * r)
    | _, _ => none

/-- The next byte boundary at or after bit `k` (`align()`, R292). -/
def alignUp (k : Nat) : Nat := (k + 7) / 8 * 8

/-- `bits(n)` on the registers: the value read and the registers with the cursor moved (R292). -/
def readField (w : Work) (n : Nat) : Option (Nat × Work) :=
  match readLsb w.input w.inf.bitPos n with
  | some v => some (v, { w with inf := { w.inf with bitPos := w.inf.bitPos + n } })
  | none => none

/-- `k` fields of `n` bits each, in order (R299). -/
def readFields (w : Work) (n : Nat) : Nat → Option (List Nat × Work)
  | 0 => some ([], w)
  | k + 1 =>
    match readField w n with
    | none => none
    | some (v, w') =>
      match readFields w' n k with
      | none => none
      | some (vs, w'') => some (v :: vs, w'')

end Sys2Proof.Machine
end

