-- ==== Sys2Proof/Machine/A85Stream.lean ====
section
/-! DEFINITION. The Ascii85 stream's symbols on the transient registers (41_ascii85.md R160 to R170). The
cursor stands past the symbol's own byte when these run (Machine/Fetch.lean). -/

namespace Sys2Proof.Machine

/-- The registers at the start of `A85.DECODE` (R160). -/
def a85Start (bs : Bytes) (p : Option Params) : Work :=
  { Work.idle with phase := .a85, input := bs, params := p }

/-- A byte of the skip class changes nothing else (R162). -/
def a85Skip (_c : Byte) (w : Work) : Progress := .running w

/-- A digit: accumulated with its weight; the fifth completes the group, whose value must fit 32 bits
(R163, R99, decision D15). -/
def a85Digit (c : Byte) (w : Work) : Progress :=
  let acc := w.acc + (c.toNat - 0x21) * Config.w85 w.n
  if w.n + 1 = 5 then
    if acc > 4294967295 then .raised .valueOutOfRange
    else .running { w with acc := 0, n := 0, out := w.out ++ unpack32 acc }
  else .running { w with acc := acc, n := w.n + 1 }

/-- 'z': four zero bytes between groups, a fault inside one (R164). -/
def a85Z (w : Work) : Progress :=
  if w.n ≠ 0 then .raised .valueOutOfRange
  else .running { w with out := w.out ++ [0, 0, 0, 0] }

/-- '~': the very next byte must be '>' (R166). -/
def a85Terminator (w : Work) : Progress :=
  if w.input[w.ip]? = some 0x3E then .running { w with phase := .a85End, ip := w.ip + 1 }
  else .raised .valueOutOfRange

/-- Any other byte (R167). -/
def a85Illegal (_c : Byte) (_w : Work) : Progress := .raised .valueOutOfRange

/-- `flush_partial` and the end of the command (R168): n digits give n - 1 bytes of the biased tuple, a lone
digit gives none and is not checked. -/
def a85EndOfData (w : Work) : Progress :=
  if 2 ≤ w.n then
    let v := w.acc + Config.w85 (w.n - 1)
    if v > 4294967295 then .raised .valueOutOfRange
    else .done { w with out := w.out ++ (unpack32 v).take (w.n - 1) }
  else .done w

end Sys2Proof.Machine
end

