-- ==== Sys2Proof/Machine/HexStream.lean ====
section
/-! DEFINITION. The hex stream's symbols on the transient registers (40_hex.md R134 to R140). The cursor
stands past the symbol's own byte when these run (Machine/Fetch.lean). -/

namespace Sys2Proof.Machine

/-- The registers at the start of `HEX.DECODE` (R134). -/
def hexStart (bs : Bytes) (p : Option Params) : Work :=
  { Work.idle with phase := .hex, input := bs, params := p }

/-- A digit of value `v`: the high digit of a pair is kept, the low digit completes the byte
`high * 16 + low` (R134, R137, R69). -/
def hexNibble (v : BitVec 4) (w : Work) : Progress :=
  match w.hi with
  | none => .running { w with hi := some v }
  | some h => .running { w with hi := none, out := w.out ++ [h ++ v] }

/-- Whitespace is skipped wherever it stands (R136). -/
def hexWhitespace (_c : Byte) (w : Work) : Progress := .running w

/-- '0'..'9' (R137, R97). -/
def hexDigit09 (v : BitVec 4) (w : Work) : Progress := hexNibble v w

/-- 'A'..'F': the digit value is `c - 'A' + 10` with c = 0x40 + v (R137, R97). -/
def hexDigitUpper (v : BitVec 3) (w : Work) : Progress := hexNibble (BitVec.ofNat 4 (v.toNat + 9)) w

/-- 'a'..'f': the digit value is `c - 'a' + 10` with c = 0x60 + v (R137, R97). -/
def hexDigitLower (v : BitVec 3) (w : Work) : Progress := hexNibble (BitVec.ofNat 4 (v.toNat + 9)) w

/-- A byte that is neither whitespace nor a digit (R138). -/
def hexIllegal (_c : Byte) (_w : Work) : Progress := .raised .valueOutOfRange

/-- The end of the input: an open pair is a fault, else the command is done (R134, R139). -/
def hexEndOfInput (w : Work) : Progress :=
  match w.hi with
  | none => .done w
  | some _ => .raised .valueOutOfRange

end Sys2Proof.Machine
end

