-- ==== Sys2Proof/Machine/Huffman.lean ====
section
/-! DEFINITION. Canonical Huffman codes (47_zlib_deflate_reference.md R295, R296, R301) and the tables of
R297, R299, R305 and R306. -/

namespace Sys2Proof.Machine

/-- `bl_count[b]`, with `bl_count[0] = 0` (R295). -/
def blCount (lens : List Nat) (b : Nat) : Nat := if b = 0 then 0 else lens.count b

/-- `next_code[b]` before any symbol has taken a code (R295). -/
def firstCode (lens : List Nat) : Nat → Nat
  | 0 => 0
  | b + 1 => (firstCode lens b + blCount lens b) * 2

/-- The codes of the symbols `sym`, `sym + 1`, …, whose lengths are listed, each taking `next_code` of its
length (R295). -/
def assignCodes : List Nat → Nat → List Nat → HuffCode
  | _, _, [] => []
  | next, sym, l :: ls =>
    if l = 0 then assignCodes next (sym + 1) ls
    else ⟨l, next.getD l 0, sym⟩ :: assignCodes (next.set l (next.getD l 0 + 1)) (sym + 1) ls

/-- The canonical code of a list of code lengths (R295). -/
def canonicalCode (lens : List Nat) : HuffCode :=
  assignCodes ((List.range 16).map (firstCode lens)) 0 lens

/-- Decoding one symbol after `l` bits of value `c`, with at most `fuel` bits more (R296): the symbol and
the bit after its code; `none` for a pattern that is no symbol's code and where the input ends. -/
def readSymbolFrom (bs : Bytes) (code : HuffCode) : Nat → Nat → Nat → Nat → Option (Nat × Nat)
  | 0, _, _, _ => none
  | fuel + 1, k, l, c =>
    match lsbBit bs k with
    | none => none
    | some b =>
      let c' := 2 * c + b.toNat
      match code.find? (fun e => e.len == l + 1 && e.code == c') with
      | some e => some (e.sym, k + 1)
      | none => readSymbolFrom bs code fuel (k + 1) (l + 1) c'

/-- Decoding one symbol from bit `k` on (R296): codes have at most 15 bits. -/
def readSymbol (bs : Bytes) (code : HuffCode) (k : Nat) : Option (Nat × Nat) :=
  readSymbolFrom bs code 15 k 0 0

/-- `left` of R301 after the lengths 1..b; `none` once the set is over-subscribed. -/
def kraftLeft (lens : List Nat) : Nat → Option Nat
  | 0 => some 1
  | b + 1 =>
    match kraftLeft lens b with
    | none => none
    | some left =>
      if 2 * left < blCount lens (b + 1) then none else some (2 * left - blCount lens (b + 1))

/-- The set of code lengths is neither over-subscribed nor incomplete (R301). -/
def completeLens (lens : List Nat) : Bool := kraftLeft lens 15 == some 0

/-- The test for a literal/length or distance code (R301): complete, or incomplete with no code longer
than one bit. -/
def acceptableLens (lens : List Nat) : Bool :=
  match kraftLeft lens 15 with
  | none => false
  | some left => left == 0 || lens.all (· ≤ 1)

/-- The literal/length code lengths of a fixed block (R297). -/
def fixedLitLens : List Nat :=
  List.replicate 144 8 ++ List.replicate 112 9 ++ List.replicate 24 7 ++ List.replicate 8 8

/-- The distance code lengths of a fixed block (R297). -/
def fixedDistLens : List Nat := List.replicate 32 5

/-- The order in which the code-length-code lengths stand (R299). -/
def codelenOrder : List Nat := [16, 17, 18, 0, 8, 7, 9, 6, 10, 5, 11, 4, 12, 3, 13, 2, 14, 1, 15]

/-- The 19 code-length-code lengths from the values read in the order of R299; 0 where none was read. -/
def codelenLens (vals : List Nat) : List Nat :=
  (List.range 19).map (fun s => vals.getD (codelenOrder.idxOf s) 0)

/-- Base lengths by `s - 257` (R305). -/
def lengthBase : List Nat :=
  [3, 4, 5, 6, 7, 8, 9, 10, 11, 13, 15, 17, 19, 23, 27, 31, 35, 43, 51, 59, 67, 83, 99, 115, 131, 163,
    195, 227, 258]

/-- Extra bits by `s - 257` (R305). -/
def lengthExtra : List Nat :=
  [0, 0, 0, 0, 0, 0, 0, 0, 1, 1, 1, 1, 2, 2, 2, 2, 3, 3, 3, 3, 4, 4, 4, 4, 5, 5, 5, 5, 0]

/-- Base distances (R306). -/
def distBase : List Nat :=
  [1, 2, 3, 4, 5, 7, 9, 13, 17, 25, 33, 49, 65, 97, 129, 193, 257, 385, 513, 769, 1025, 1537, 2049,
    3073, 4097, 6145, 8193, 12289, 16385, 24577]

/-- Extra bits of a distance (R306). -/
def distExtra : List Nat :=
  [0, 0, 0, 0, 1, 1, 2, 2, 3, 3, 4, 4, 5, 5, 6, 6, 7, 7, 8, 8, 9, 9, 10, 10, 11, 11, 12, 12, 13, 13]

end Sys2Proof.Machine
end

