-- ==== Sys2Proof/Machine/PredictorStream.lean ====
section
/-! DEFINITION. Predictor reversal on the transient registers (43_predictor.md R210 to R224): the dispatch
on the Predictor value, then one row for each tag. The cursor stands past the tag byte when a row runs
(Machine/Fetch.lean). -/

namespace Sys2Proof.Machine

/-- `get(key)`: the key's value, or its default where it is absent (R37). -/
def getParam (v : Option Int) (default : Int) : Int := v.getD default

/-- The five parameter registers loaded from `PARAMS`, with the defaults of `P` (R37, R210). -/
def loadParams (p : Params) (w : Work) (P : StreamParameters := Config.stream) : Work :=
  { w with pred := { w.pred with
      predictor := getParam p.predictor P.defPredictor
      colors := getParam p.colors P.defColors
      bpc := getParam p.bitsPerComponent P.defBpc
      columns := getParam p.columns P.defColumns
      earlyChange := getParam p.earlyChange P.defEarlyChange } }

/-- `ceil(columns * bpc / 8)` on unbounded integers (R38, R212). -/
def rowWidth (columns bpc : Int) : Nat := (columns.toNat * bpc.toNat + 7) / 8

/-- Predictor 1: the inflated bytes pass through (R211). -/
def predictorNone (w : Work) : Progress := .done { w with out := w.inf.infl }

/-- Predictor 2, TIFF, is not implemented by the block (R214). -/
def predictorTiff (_w : Work) : Progress := .raised .unsupportedOperation

/-- An undefined Predictor value (R215). -/
def predictorUndefined (_v : Int) (_w : Work) : Progress := .raised .invalidPredictor

/-- Predictor >= 10: the legality check, then the row loop from a zero history (R210, R213, R216): every byte
of `prev` past its list's end is the zero it is seeded with. -/
def predictorPng (_v : Int) (w : Work) : Progress :=
  if w.pred.columns < 1 ∨ w.pred.bpc < 1 then .raised .invalidArgument
  else
    .running { w with
      phase := .png
      out := []
      ip := 0
      pred := { w.pred with rowBytes := rowWidth w.pred.columns w.pred.bpc, prev := [] } }

/-- The prediction from the left, upper and upper-left reconstructed bytes. -/
abbrev RowFilter := Byte → Byte → Byte → Byte

/-- Tags 0 and 2: the byte above (R217). -/
def upFilter : RowFilter := fun _ up _ => up

/-- Tag 1: the byte before (R218). -/
def subFilter : RowFilter := fun left _ _ => left

/-- Tag 3: half the 9-bit sum of left and up, rounded down (R219). -/
def averageFilter : RowFilter := fun left up _ => BitVec.ofNat 8 ((left.toNat + up.toNat) / 2)

/-- Tag 4: the nearest of left, up, upper-left to `left + up - upleft`, ties in that order (R220). -/
def paethFilter : RowFilter := fun a b c =>
  let p : Int := (a.toNat : Int) + b.toNat - c.toNat
  let pa := (p - a.toNat).natAbs
  let pb := (p - b.toNat).natAbs
  let pc := (p - c.toNat).natAbs
  if pa ≤ pb ∧ pa ≤ pc then a else if pb ≤ pc then b else c

/-- The row of raw bytes reconstructed against the bytes of the row above, from a left and an upper-left
neighbour, every sum modulo 256 (R216). -/
def reconstruct (f : RowFilter) : Bytes → Bytes → Byte → Byte → Bytes
  | [], _, _, _ => []
  | raw :: raws, prev, left, upleft =>
    let up := prev.headD 0
    let b := raw + f left up upleft
    b :: reconstruct f raws prev.tail b up

/-- One row of tag `tag`: the bytes present of `rowBytes` are reconstructed and emitted, and become the row
history (R216, R222, R223). -/
def pngRow (tag : Byte) (f : RowFilter) (w : Work) : Progress :=
  let raw := (w.inf.infl.drop w.ip).take w.pred.rowBytes
  let cur := reconstruct f raw w.pred.prev 0 0
  .running { w with
    out := w.out ++ cur
    ip := w.ip + raw.length
    pred := { w.pred with
      tag := tag
      cur := cur
      col := raw.length
      prev := cur ++ w.pred.prev.drop cur.length } }

/-- Tag 0, None: the same formula as Up (R217). -/
def pngTagNone (w : Work) : Progress := pngRow 0 upFilter w
/-- Tag 1, Sub (R218). -/
def pngTagSub (w : Work) : Progress := pngRow 1 subFilter w
/-- Tag 2, Up (R217). -/
def pngTagUp (w : Work) : Progress := pngRow 2 upFilter w
/-- Tag 3, Average (R219). -/
def pngTagAverage (w : Work) : Progress := pngRow 3 averageFilter w
/-- Tag 4, Paeth (R220). -/
def pngTagPaeth (w : Work) : Progress := pngRow 4 paethFilter w
/-- Tag 5..255 (R221). -/
def pngTagIllegal (_t : Byte) (_w : Work) : Progress := .raised .invalidPredictor

end Sys2Proof.Machine
end

