-- ==== Sys2Proof/Machine/InflateStream.lean ====
section
/-! DEFINITION. The zlib and DEFLATE symbols on the transient registers (47_zlib_deflate_reference.md R290
to R312). The bit cursor stands past the symbol's own bits when these run (Machine/Fetch.lean). Every
`error` of R312 is `DecompressionError` (42_flate.md R191). -/

namespace Sys2Proof.Machine

/-- The registers at the start of `FLATE.DECODE` (42_flate.md R189). -/
def flateStart (bs : Bytes) (p : Option Params) : Work :=
  { Work.idle with phase := .zlibHeader, input := bs, params := p }

/-- `error` of R290 and R312. -/
def inflateError : Progress := .raised .decompressionError

/-- The four checks of the zlib header (R291). -/
def zlibHeaderOk (cmf flg : Byte) : Bool :=
  (cmf.toNat * 256 + flg.toNat) % 31 == 0 && cmf.toNat % 16 == 8 && cmf.toNat / 16 ≤ 7
    && flg.toNat / 32 % 2 == 0

/-- The zlib header: the DEFLATE data follows it (R291, R292). -/
def zlibHeader (cmf flg : Byte) (w : Work) : Progress :=
  if zlibHeaderOk cmf flg then .running { w with phase := .blockHeader, inf := .start }
  else inflateError

/-- What follows a block: the trailer after the final one, else the next block header (R293). -/
def afterBlock (w : Work) : Work :=
  { w with phase := if w.inf.bfinal then .trailer else .blockHeader }

/-- A stored block (R294). -/
def deflateBlockStored (bfinal : Bool) (w : Work) : Progress :=
  match readField { w with inf := { w.inf with bitPos := alignUp w.inf.bitPos } } 16 with
  | none => inflateError
  | some (len, w1) =>
    match readField w1 16 with
    | none => inflateError
    | some (nlen, w2) =>
      if nlen ≠ len ^^^ 0xFFFF then inflateError
      else
        let start := 2 + w2.inf.bitPos / 8
        if start + len > w2.input.length then inflateError
        else
          .running (afterBlock { w2 with inf := { w2.inf with
            bfinal := bfinal
            infl := w2.inf.infl ++ (w2.input.drop start).take len
            bitPos := w2.inf.bitPos + 8 * len } })

/-- A block compressed with the fixed codes (R297). -/
def deflateBlockFixed (bfinal : Bool) (w : Work) : Progress :=
  .running { w with
    phase := .data
    inf := { w.inf with
      bfinal := bfinal
      litCode := canonicalCode fixedLitLens
      distCode := canonicalCode fixedDistLens } }

/-- A block compressed with dynamic codes: its three counts and its code-length code (R298, R299). -/
def deflateBlockDynamic (bfinal : Bool) (w : Work) : Progress :=
  match readField w 5 with
  | none => inflateError
  | some (hlit, w1) =>
    match readField w1 5 with
    | none => inflateError
    | some (hdist, w2) =>
      match readField w2 4 with
      | none => inflateError
      | some (hclen, w3) =>
        if hlit + 257 > 286 ∨ hdist + 1 > 30 then inflateError
        else
          match readFields w3 3 (hclen + 4) with
          | none => inflateError
          | some (vals, w4) =>
            if completeLens (codelenLens vals) then
              .running { w4 with
                phase := .codeLengths
                inf := { w4.inf with
                  bfinal := bfinal
                  nLit := hlit + 257
                  nDist := hdist + 1
                  lens := []
                  clCode := canonicalCode (codelenLens vals) } }
            else inflateError

/-- Block type 3 (R293). -/
def deflateBlockIllegal (_bfinal : Bool) (_w : Work) : Progress := inflateError

/-- The complete sequence of code lengths builds the two codes of the block (R300, R301). -/
def finishLens (w : Work) : Progress :=
  let lit := w.inf.lens.take w.inf.nLit
  let dist := w.inf.lens.drop w.inf.nLit
  if lit.getD 256 0 = 0 then inflateError
  else if acceptableLens lit && acceptableLens dist then
    .running { w with
      phase := .data
      inf := { w.inf with litCode := canonicalCode lit, distCode := canonicalCode dist } }
  else inflateError

/-- Code lengths appended to the sequence, which has `nLit + nDist` of them in all (R300). -/
def pushLens (xs : List Nat) (w : Work) : Progress :=
  let w' := { w with inf := { w.inf with lens := w.inf.lens ++ xs } }
  if w'.inf.lens.length > w.inf.nLit + w.inf.nDist then inflateError
  else if w'.inf.lens.length = w.inf.nLit + w.inf.nDist then finishLens w'
  else .running w'

/-- Code-length symbol 0..15 (R300). -/
def deflateCodelenLiteral (len : BitVec 4) (w : Work) : Progress := pushLens [len.toNat] w

/-- Code-length symbol 16: the previous length 3 to 6 times (R300). -/
def deflateCodelen16 (w : Work) : Progress :=
  match w.inf.lens.getLast? with
  | none => inflateError
  | some l =>
    match readField w 2 with
    | none => inflateError
    | some (x, w') => pushLens (List.replicate (3 + x) l) w'

/-- Code-length symbol 17: 3 to 10 zeros (R300). -/
def deflateCodelen17 (w : Work) : Progress :=
  match readField w 3 with
  | none => inflateError
  | some (x, w') => pushLens (List.replicate (3 + x) 0) w'

/-- Code-length symbol 18: 11 to 138 zeros (R300). -/
def deflateCodelen18 (w : Work) : Progress :=
  match readField w 7 with
  | none => inflateError
  | some (x, w') => pushLens (List.replicate (11 + x) 0) w'

/-- A literal (R303). -/
def deflateSymLiteral (b : Byte) (w : Work) : Progress :=
  .running { w with inf := { w.inf with infl := w.inf.infl ++ [b] } }

/-- End of block (R304). -/
def deflateSymEndOfBlock (w : Work) : Progress := .running (afterBlock w)

/-- A length symbol: `L = base + bits(extra)`, and a distance symbol is next (R305, R302). -/
def deflateSymLength (sym : BitVec 9) (w : Work) : Progress :=
  let s := sym.toNat - 257
  match readField w (lengthExtra.getD s 0) with
  | none => inflateError
  | some (x, w') =>
    .running { w' with phase := .distance, inf := { w'.inf with copyLen := lengthBase.getD s 0 + x } }

/-- `L` times the byte `D` back, one byte at a time, so that source and destination may overlap (R309). -/
def copyBack (d : Nat) : Nat → Bytes → Bytes
  | 0, out => out
  | l + 1, out => copyBack d l (out ++ [out.getD (out.length - d) 0])

/-- A distance symbol: `D = base + bits(extra)`, then the copy (R306, R309). -/
def deflateSymDistance (sym : BitVec 5) (w : Work) : Progress :=
  match readField w (distExtra.getD sym.toNat 0) with
  | none => inflateError
  | some (x, w') =>
    let d := distBase.getD sym.toNat 0 + x
    if d > w'.inf.infl.length then inflateError
    else
      .running { w' with
        phase := .data
        inf := { w'.inf with infl := copyBack d w'.inf.copyLen w'.inf.infl } }

/-- Literal/length symbols 286 and 287, distance symbols 30 and 31 (R307). -/
def deflateSymIllegal (_sym : BitVec 9) (_w : Work) : Progress := inflateError

/-- One byte of the Adler-32 sums (R311). -/
def adlerStep (s : Nat × Nat) (b : Byte) : Nat × Nat :=
  let s1 := (s.1 + b.toNat) % 65521
  (s1, (s.2 + s1) % 65521)

/-- `Adler32` (R311). -/
def adler32 (bs : Bytes) : BitVec 32 :=
  let s := bs.foldl adlerStep (1, 0)
  BitVec.ofNat 32 (s.2 * 65536 + s.1)

/-- The trailer: the checksum must match (R310). Then the inflated bytes are the result, or the input of
predictor reversal where `PARAMS` is present (42_flate.md R189), with the defaults of `P`. `ip` is left at
`consumed` (R290). -/
def zlibTrailer (adler : BitVec 32) (w : Work) (P : StreamParameters := Config.stream) : Progress :=
  if adler = adler32 w.inf.infl then
    let w' := { w with ip := 2 + w.inf.bitPos / 8 }
    match w.params with
    | none => .done { w' with out := w.inf.infl }
    | some p => .running (loadParams p { w' with phase := .predictor } P)
  else inflateError

end Sys2Proof.Machine
end

