-- ==== Sys2Proof/Machine/LzwStream.lean ====
section
/-! DEFINITION. The LZW codes on the transient registers (45_lzw.md R262 to R278). The bit cursor stands
past the code when these run (`read_code` of R264 moves it; Machine/Fetch.lean). -/

namespace Sys2Proof.Machine

/-- The registers at the start of `LZW.DECODE` (R262). -/
def lzwStart (bs : Bytes) (p : Option Params) : Work :=
  { Work.idle with phase := .lzw, input := bs, params := p, lzw := .start }

/-- `len(LZW.table)` (R40). -/
def LzwRegs.tableSize (r : LzwRegs) : Nat := 258 + r.learned.length

/-- `LZW.table[c]` (R40): the single bytes, the two placeholders, the learned entries. -/
def LzwRegs.entry (r : LzwRegs) (c : Nat) : Bytes :=
  if c < 256 then [BitVec.ofNat 8 c]
  else if c < 258 then []
  else r.learned.getD (c - 258) []

/-- The code length after an append that leaves the table with `size` entries (`widen`, R271). -/
def widened (size codeLength : Nat) : Nat :=
  if size = 511 ∨ size = 1023 ∨ size = 2047 then codeLength + 1 else codeLength

/-- Learn an entry from the previous code and the first byte of the value just emitted, unless there is no
previous code; then the code is the previous one (R270). -/
def LzwRegs.learn (r : LzwRegs) (char : Byte) (code : BitVec 12) : LzwRegs :=
  match r.prev with
  | none => { r with char := char, prev := some code }
  | some p =>
    { r with
      char := char
      prev := some code
      learned := r.learned ++ [r.entry p.toNat ++ [char]]
      codeLength := widened (r.tableSize + 1) r.codeLength }

/-- Emit `data` and learn (R270). -/
def emitAndLearn (data : Bytes) (code : BitVec 12) (w : Work) : Progress :=
  .running { w with out := w.out ++ data, lzw := w.lzw.learn (data.headD 0) code }

/-- Clear: the baseline table, 9 bits, no previous code; `OUT` and `LZW.char` stay (R266). -/
def lzwClear (w : Work) : Progress :=
  .running { w with lzw := { w.lzw with learned := [], codeLength := 9, prev := none } }

/-- End of data: the command is done (R274). -/
def lzwEod (w : Work) : Progress := .done w

/-- A code the table holds: its entry is emitted (R267); any other index is unresolvable (R268). -/
def lzwKnown (code : BitVec 12) (w : Work) : Progress :=
  if code.toNat < w.lzw.tableSize then emitAndLearn (w.lzw.entry code.toNat) code w
  else .raised .valueOutOfRange

/-- The next code to be assigned: the previous entry and the carried character (R269); without a previous
code, or at another index, it is unresolvable (R268). -/
def lzwNotYetDefined (code : BitVec 12) (w : Work) : Progress :=
  match w.lzw.prev with
  | none => .raised .valueOutOfRange
  | some p =>
    if code.toNat = w.lzw.tableSize then emitAndLearn (w.lzw.entry p.toNat ++ [w.lzw.char]) code w
    else .raised .valueOutOfRange

/-- An unresolvable code (R268). -/
def lzwIllegal (_code : BitVec 12) (_w : Work) : Progress := .raised .valueOutOfRange

end Sys2Proof.Machine
end

