-- ==== Sys2Proof/Machine/RleStream.lean ====
section
/-! DEFINITION. The RLE control bytes on the transient registers (44_rle.md R242 to R247). The cursor
stands past the control byte when these run (Machine/Fetch.lean). -/

namespace Sys2Proof.Machine

/-- The registers at the start of `RLE.DECODE` (R242). -/
def rleStart (bs : Bytes) (p : Option Params) : Work :=
  { Work.idle with phase := .rle, input := bs, params := p }

/-- A literal run of `n + 1` bytes (R244); a run cut by the end of the input is a fault (R247). -/
def rleLiteral (n : BitVec 7) (w : Work) : Progress :=
  let k := n.toNat + 1
  if w.ip + k > w.input.length then .raised .valueOutOfRange
  else .running { w with out := w.out ++ (w.input.drop w.ip).take k, ip := w.ip + k }

/-- End of data: the command is done even if input remains (R245). -/
def rleEod (w : Work) : Progress := .done w

/-- A replicate run: the following byte `257 - c` times, where the control byte is c = 128 + n (R246). -/
def rleReplicate (n : BitVec 7) (w : Work) : Progress :=
  match w.input[w.ip]? with
  | none => .raised .valueOutOfRange
  | some b =>
    .running { w with out := w.out ++ List.replicate (257 - (128 + n.toNat)) b, ip := w.ip + 1 }

end Sys2Proof.Machine
end

