-- ==== Sys2Proof/Machine/Fetch.lean ====
section
/-! DEFINITION. Reading the next symbol of the running `DECODE` (30_encoding.md R108, R117), running it, and
the loop of a whole command (70_reset_and_hazards.md R400). -/

namespace Sys2Proof.Machine

/-- What stands at the cursor of the running `DECODE`. -/
inductive Fetched where
  /-- A symbol, and the registers with the cursor past its own bits. -/
  | symbol (i : Instr) (w : Work)
  /-- The stop condition of R117: the command is done. -/
  | stop
  /-- No symbol can be read there: the command ends with this fault. -/
  | bad (e : Status)
deriving DecidableEq, Repr

/-- A symbol of the DEFLATE languages, or `DecompressionError` where none was read (R312 cases 5 and 8). -/
def fetchedSymbol (w : Work) (decodeSym : Nat → Option Instr) : Option (Nat × Nat) → Fetched
  | none => .bad .decompressionError
  | some (s, k) =>
    match decodeSym s with
    | none => .bad .decompressionError
    | some i => .symbol i { w with inf := { w.inf with bitPos := k } }

/-- The code at the LZW bit cursor (R264). -/
def lzwCodeAt (w : Work) : BitVec 12 := BitVec.ofNat 12 (readMsb w.input w.lzw.bp w.lzw.codeLength 0)

/-- The next symbol in the language of the phase (R96 to R106, R108), for the whitespace sets of `P`. -/
def fetch (w : Work) (P : StreamParameters := Config.stream) : Fetched :=
  match w.phase with
  | .idle => .stop
  | .hex =>
    match w.input[w.ip]? with
    | none => .symbol .hexEndOfInput w
    | some c => .symbol (decodeHexChar c P) { w with ip := w.ip + 1 }
  | .a85 =>
    match w.input[w.ip]? with
    | none => .symbol .a85EndOfData w
    | some c => .symbol (decodeA85Char c P) { w with ip := w.ip + 1 }
  | .a85End => .symbol .a85EndOfData w
  | .rle =>
    match w.input[w.ip]? with
    | none => .stop
    | some c => .symbol (decodeRleControl c) { w with ip := w.ip + 1 }
  | .lzw =>
    if w.lzw.bp + w.lzw.codeLength ≤ 8 * w.input.length then
      .symbol (decodeLzwCode w.lzw.tableSize w.lzw.prev.isSome (lzwCodeAt w))
        { w with lzw := { w.lzw with bp := w.lzw.bp + w.lzw.codeLength } }
    else .stop
  | .zlibHeader =>
    match w.input[0]?, w.input[1]? with
    | some cmf, some flg => .symbol (.zlibHeader cmf flg) w
    | _, _ => .bad .decompressionError
  | .blockHeader =>
    match readField w 3 with
    | none => .bad .decompressionError
    | some (v, w') => .symbol (decodeBlockHeader (v % 2 == 1) (v / 2)) w'
  | .codeLengths => fetchedSymbol w decodeCodelen (readSymbol w.input w.inf.clCode w.inf.bitPos)
  | .data => fetchedSymbol w decodeLitLen (readSymbol w.input w.inf.litCode w.inf.bitPos)
  | .distance => fetchedSymbol w decodeDistance (readSymbol w.input w.inf.distCode w.inf.bitPos)
  | .trailer =>
    match (w.input.drop (2 + alignUp w.inf.bitPos / 8)).take 4 with
    | [b0, b1, b2, b3] =>
      .symbol (decodeTrailer b0 b1 b2 b3)
        { w with inf := { w.inf with bitPos := alignUp w.inf.bitPos + 32 } }
    | _ => .bad .decompressionError
  | .predictor => .symbol (decodePredictor w.pred.predictor) w
  | .png =>
    match w.inf.infl[w.ip]? with
    | none => .stop
    | some t => .symbol (decodePngTag t) { w with ip := w.ip + 1 }

/-- The effect of a symbol on the registers. A command is no symbol of any stream: `fetch` never gives one,
and the arms of the commands stand for it only so that the match names every instruction. -/
def runSymbol (i : Instr) (w : Work) (P : StreamParameters := Config.stream) : Progress :=
  match i with
  | .hexWhitespace c => hexWhitespace c w
  | .hexDigit09 v => hexDigit09 v w
  | .hexDigitUpper v => hexDigitUpper v w
  | .hexDigitLower v => hexDigitLower v w
  | .hexIllegal c => hexIllegal c w
  | .hexEndOfInput => hexEndOfInput w
  | .a85Skip c => a85Skip c w
  | .a85Digit c => a85Digit c w
  | .a85Z => a85Z w
  | .a85Terminator => a85Terminator w
  | .a85Illegal c => a85Illegal c w
  | .a85EndOfData => a85EndOfData w
  | .rleLiteral n => rleLiteral n w
  | .rleEod => rleEod w
  | .rleReplicate n => rleReplicate n w
  | .lzwClear => lzwClear w
  | .lzwEod => lzwEod w
  | .lzwKnown code => lzwKnown code w
  | .lzwNotYetDefined code => lzwNotYetDefined code w
  | .lzwIllegal code => lzwIllegal code w
  | .predictorNone => predictorNone w
  | .predictorTiff => predictorTiff w
  | .predictorPng v => predictorPng v w
  | .predictorUndefined v => predictorUndefined v w
  | .pngTagNone => pngTagNone w
  | .pngTagSub => pngTagSub w
  | .pngTagUp => pngTagUp w
  | .pngTagAverage => pngTagAverage w
  | .pngTagPaeth => pngTagPaeth w
  | .pngTagIllegal t => pngTagIllegal t w
  | .zlibHeader cmf flg => zlibHeader cmf flg w
  | .deflateBlockStored f => deflateBlockStored f w
  | .deflateBlockFixed f => deflateBlockFixed f w
  | .deflateBlockDynamic f => deflateBlockDynamic f w
  | .deflateBlockIllegal f => deflateBlockIllegal f w
  | .deflateCodelenLiteral l => deflateCodelenLiteral l w
  | .deflateCodelen16 => deflateCodelen16 w
  | .deflateCodelen17 => deflateCodelen17 w
  | .deflateCodelen18 => deflateCodelen18 w
  | .deflateSymLiteral b => deflateSymLiteral b w
  | .deflateSymEndOfBlock => deflateSymEndOfBlock w
  | .deflateSymLength s => deflateSymLength s w
  | .deflateSymDistance d => deflateSymDistance d w
  | .deflateSymIllegal s => deflateSymIllegal s w
  | .zlibTrailer a => zlibTrailer a w P
  | .hexBeginEncode _ | .hexEncodeBlock _ | .hexEndEncode | .hexDecode _ _ => .raised .invalidArgument
  | .a85BeginEncode _ | .a85EncodeBlock _ | .a85EndEncode | .a85Decode _ _ => .raised .invalidArgument
  | .flateBeginEncode _ | .flateEncodeBlock _ | .flateEndEncode => .raised .invalidArgument
  | .flateDecode _ _ | .rleBeginEncode _ | .rleEncodeBlock _ => .raised .invalidArgument
  | .rleEndEncode | .rleDecode _ _ | .lzwBeginEncode _ => .raised .invalidArgument
  | .lzwEncodeBlock _ | .lzwEndEncode | .lzwDecode _ _ => .raised .invalidArgument
  | .reservedCommand _ => .raised .invalidArgument

/-- One turn of a decode loop: read the next symbol and apply its rule, or stop (R117). -/
def streamNext (w : Work) (P : StreamParameters := Config.stream) : Progress :=
  match fetch w P with
  | .symbol i w' => runSymbol i w' P
  | .stop => .done w
  | .bad e => .raised e

/-- The decode loop while `live` holds, with a bound on its turns; R400 says every loop ends, and the
budgets below are that argument in numbers. -/
def runStream (live : Work → Bool) (fuel : Nat) (w : Work) (P : StreamParameters := Config.stream) : Progress :=
  match fuel with
  | 0 => .running w
  | k + 1 =>
    if live w then
      match streamNext w P with
      | .running w' => runStream live k w' P
      | .done w' => .done w'
      | .raised e => .raised e
    else .running w

/-- Every decode loop but inflate's runs to its end. -/
def untilEnd (_w : Work) : Bool := true

/-- Inflate runs until predictor reversal begins. -/
def inflating (w : Work) : Bool :=
  match w.phase with
  | .predictor | .png => false
  | .idle | .hex | .a85 | .a85End | .rle | .lzw => true
  | .zlibHeader | .blockHeader | .codeLengths | .data | .distance | .trailer => true

/-- `HEX.DECODE` on a present input (R134): each turn reads a byte or ends. -/
def hexRun (bs : Bytes) (p : Option Params) (P : StreamParameters := Config.stream) : Progress :=
  runStream untilEnd (bs.length + 1) (hexStart bs p) P

/-- `A85.DECODE` on a present input (R160): each turn reads a byte or ends. -/
def a85Run (bs : Bytes) (p : Option Params) (P : StreamParameters := Config.stream) : Progress :=
  runStream untilEnd (bs.length + 1) (a85Start bs p) P

/-- `RLE.DECODE` on a present input (R242): each turn reads a byte or ends. -/
def rleRun (bs : Bytes) (p : Option Params) (P : StreamParameters := Config.stream) : Progress :=
  runStream untilEnd (bs.length + 1) (rleStart bs p) P

/-- `LZW.DECODE` on a present input (R262): each turn reads at least 9 bits or ends. -/
def lzwRun (bs : Bytes) (p : Option Params) (P : StreamParameters := Config.stream) : Progress :=
  runStream untilEnd (bs.length + 1) (lzwStart bs p) P

/-- Inflate on a present input (R290): the header, then at least one bit each turn, then the trailer. -/
def inflateRun (bs : Bytes) (p : Option Params) (P : StreamParameters := Config.stream) : Progress :=
  runStream inflating (8 * bs.length + 2) (flateStart bs p) P

/-- `ZlibInflate` (R290): the inflated bytes and `consumed`, or `none` for `error`. -/
def zlibInflate (bs : Bytes) : Option (Bytes × Nat) :=
  match inflateRun bs none with
  | .done w => some (w.out, w.ip)
  | .running _ => none
  | .raised _ => none

/-- `Inflate` (42_flate.md R190): `consumed` dropped. -/
def inflate (bs : Bytes) : Option Bytes := (zlibInflate bs).map Prod.fst

/-- The registers at the start of predictor reversal: `INFL` is `y`, and the five parameters are loaded
(42_flate.md R189, R63, R210). -/
def reversalStart (bs y : Bytes) (p : Params) (P : StreamParameters := Config.stream) : Work :=
  loadParams p { flateStart bs (some p) with phase := .predictor, inf := { InflateRegs.start with infl := y } } P

/-- `FLATE.DECODE` on a present input (42_flate.md R189), for any `Inflate` (R190): all of inflate, then
predictor reversal over the whole of `INFL` where `PARAMS` is present (R216), where each turn after the
dispatch reads a tag or ends. -/
def flateRun (inflateFn : Bytes → Option Bytes) (bs : Bytes) (p : Option Params)
    (P : StreamParameters := Config.stream) : Progress :=
  match inflateFn bs with
  | none => inflateError
  | some y =>
    match p with
    | none => .done { flateStart bs none with out := y }
    | some q => runStream untilEnd (y.length + 2) (reversalStart bs y q P) P

end Sys2Proof.Machine
end

