-- ==== Sys2Proof/Machine/StoredDeflate.lean ====
section
/-! DEFINITION. `StoredDeflate`, the admissible encoder of 47_zlib_deflate_reference.md R320, and the proof
that it satisfies FlateContract (42_flate.md R184). The model does not run it: it shows that the encoders
Machine/Encoder.lean speaks of exist. -/

namespace Sys2Proof.Machine

/-- `ZState`, the opaque compressor context (R30), as plain data. -/
abbrev ZState := Bytes

/-- `zInit = []` (R320). -/
def storedInit : ZState := []

/-- `zFeed(z, B) = (z ++ B, [])` (R320). -/
def storedFeed (z : ZState) (b : Bytes) : ZState × Bytes := (z ++ b, [])

/-- Two bytes, least significant first (R294). -/
def le16 (n : Nat) : Bytes := [BitVec.ofNat 8 n, BitVec.ofNat 8 (n / 256)]

/-- One stored block holding a piece of at most 65535 bytes (R294, R320). -/
def storedPiece (last : Bool) (p : Bytes) : Bytes :=
  BitVec.ofNat 8 last.toNat :: (le16 p.length ++ le16 (65535 - p.length) ++ p)

/-- The stored blocks of `z`, in at most `k + 1` pieces (R320): pieces of 65535 bytes and a last one of what
remains. DESIGN CHOICE (notes/assumptions/21.md): where `z` has 2 * 65535, 3 * 65535, ... bytes, R320 lets the last
piece be empty without saying whether it is; here it is not, the last full piece of 65535 bytes is the final block
and no empty piece follows it. -/
def storedBlocks : Nat → Bytes → Bytes
  | 0, z => storedPiece true z
  | k + 1, z =>
    if z.length ≤ 65535 then storedPiece true z
    else storedPiece false (z.take 65535) ++ storedBlocks k (z.drop 65535)

/-- `zFinish` (R320): the header, the blocks, the checksum. -/
def storedFinish (z : ZState) : Bytes :=
  [0x78, 0x01] ++ storedBlocks z.length z ++ unpack32 (adler32 z).toNat

/-- The compressor's state and all it has emitted after the inputs `bs`, in order (R184). -/
def feedAll (feed : ZState → Bytes → ZState × Bytes) : ZState → List Bytes → ZState × Bytes
  | z, [] => (z, [])
  | z, b :: bs =>
    let r := feed z b
    let rest := feedAll feed r.1 bs
    (rest.1, r.2 ++ rest.2)

/-- **FlateContract** (R184) for an `Inflate` (R190): all that is emitted, and the rest of the stream, inflate
to the inputs. -/
def FlateContract (inflateFn : Bytes → Option Bytes) (init : ZState) (feed : ZState → Bytes → ZState × Bytes)
    (finish : ZState → Bytes) :
    Prop :=
  ∀ bs : List Bytes,
    inflateFn ((feedAll feed init bs).2 ++ finish (feedAll feed init bs).1) = some bs.flatten

theorem bits_of_byte (b : Byte) :
    (b.getLsbD 0).toNat + 2 * ((b.getLsbD 1).toNat + 2 * ((b.getLsbD 2).toNat + 2 * ((b.getLsbD 3).toNat
      + 2 * ((b.getLsbD 4).toNat + 2 * ((b.getLsbD 5).toNat + 2 * ((b.getLsbD 6).toNat
      + 2 * (b.getLsbD 7).toNat)))))) = b.toNat := by
  revert b; decide

theorem lsbBit_of_byte {bs : Bytes} {q : Nat} {b : Byte} (h : bs[2 + q]? = some b) (j : Nat) (hj : j < 8) :
    lsbBit bs (8 * q + j) = some (b.getLsbD j) := by
  have h1 : (8 * q + j) / 8 = q := by omega
  have h2 : (8 * q + j) % 8 = j := by omega
  simp [lsbBit, h1, h2, h]

theorem readLsb_byte_append {bs : Bytes} {q : Nat} {b : Byte} (h : bs[2 + q]? = some b) (n r : Nat)
    (hr : readLsb bs (8 * (q + 1)) n = some r) : readLsb bs (8 * q) (n + 8) = some (b.toNat + 256 * r) := by
  have e0 : lsbBit bs (8 * q) = _ := lsbBit_of_byte h 0 (by omega)
  have e1 : lsbBit bs (8 * q + 1) = _ := lsbBit_of_byte h 1 (by omega)
  have e2 : lsbBit bs (8 * q + 1 + 1) = _ := lsbBit_of_byte h 2 (by omega)
  have e3 : lsbBit bs (8 * q + 1 + 1 + 1) = _ := lsbBit_of_byte h 3 (by omega)
  have e4 : lsbBit bs (8 * q + 1 + 1 + 1 + 1) = _ := lsbBit_of_byte h 4 (by omega)
  have e5 : lsbBit bs (8 * q + 1 + 1 + 1 + 1 + 1) = _ := lsbBit_of_byte h 5 (by omega)
  have e6 : lsbBit bs (8 * q + 1 + 1 + 1 + 1 + 1 + 1) = _ := lsbBit_of_byte h 6 (by omega)
  have e7 : lsbBit bs (8 * q + 1 + 1 + 1 + 1 + 1 + 1 + 1) = _ := lsbBit_of_byte h 7 (by omega)
  have hr' : readLsb bs (8 * q + 1 + 1 + 1 + 1 + 1 + 1 + 1 + 1) n = some r := by rw [← hr]; congr 1
  simp only [readLsb, e0, e1, e2, e3, e4, e5, e6, e7, hr', Option.some.injEq]
  rw [← bits_of_byte b]
  simp only [Nat.mul_add, ← Nat.mul_assoc, Nat.add_assoc, Nat.reduceMul]

theorem readLsb_word {bs : Bytes} {q : Nat} {lo hi : Byte} (h0 : bs[2 + q]? = some lo)
    (h1 : bs[2 + (q + 1)]? = some hi) : readLsb bs (8 * q) 16 = some (lo.toNat + 256 * hi.toNat) := by
  have e : readLsb bs (8 * (q + 1)) 8 = some hi.toNat := by
    have := readLsb_byte_append h1 0 0 rfl
    simpa using this
  exact readLsb_byte_append h0 8 hi.toNat e

theorem readLsb_header {bs : Bytes} {q : Nat} {last : Bool}
    (h : bs[2 + q]? = some (BitVec.ofNat 8 last.toNat)) : readLsb bs (8 * q) 3 = some last.toNat := by
  have e0 : lsbBit bs (8 * q) = _ := lsbBit_of_byte h 0 (by omega)
  have e1 : lsbBit bs (8 * q + 1) = _ := lsbBit_of_byte h 1 (by omega)
  have e2 : lsbBit bs (8 * q + 1 + 1) = _ := lsbBit_of_byte h 2 (by omega)
  simp only [readLsb, e0, e1, e2]
  cases last <;> rfl

theorem le16_toNat (n : Nat) (h : n ≤ 65535) :
    (BitVec.ofNat 8 n).toNat + 256 * (BitVec.ofNat 8 (n / 256)).toNat = n := by
  simp only [BitVec.toNat_ofNat]; omega

theorem complement16 (n : Nat) (h : n ≤ 65535) : 65535 - n = n ^^^ 0xFFFF := by
  have h1 : (BitVec.ofNat 16 n ^^^ BitVec.allOnes 16) = ~~~(BitVec.ofNat 16 n) := by
    exact BitVec.xor_allOnes
  have h2 := congrArg BitVec.toNat h1
  have h3 : (BitVec.allOnes 16).toNat = 0xFFFF := by decide
  simp only [BitVec.toNat_xor, BitVec.toNat_not, BitVec.toNat_ofNat, h3] at h2
  have h4 : n % 2 ^ 16 = n := by omega
  rw [h4] at h2
  omega

/-- One turn of the decode loop over a stored block copies its piece and moves past it (R294). -/
theorem streamNext_storedPiece (w : Work) (q : Nat) (last : Bool) (p rest : Bytes)
    (hphase : w.phase = .blockHeader) (hpos : w.inf.bitPos = 8 * q) (hp : p.length ≤ 65535)
    (hin : w.input.drop (2 + q) = storedPiece last p ++ rest) :
    ∃ w', streamNext w = .running w' ∧ w'.phase = (if last then .trailer else .blockHeader) ∧
      w'.input = w.input ∧ w'.params = w.params ∧ w'.inf.bitPos = 8 * (q + 5 + p.length) ∧
      w'.inf.infl = w.inf.infl ++ p := by
  have hget : ∀ j, w.input[2 + q + j]? = (storedPiece last p ++ rest)[j]? := by
    intro j; rw [← hin, List.getElem?_drop]
  have g0 : w.input[2 + q]? = some (BitVec.ofNat 8 last.toNat) := by
    simpa [storedPiece] using hget 0
  have g1 : w.input[2 + (q + 1)]? = some (BitVec.ofNat 8 p.length) := by
    exact (Nat.add_assoc 2 q 1 ▸ hget 1).trans rfl
  have g2 : w.input[2 + (q + 1 + 1)]? = some (BitVec.ofNat 8 (p.length / 256)) := by
    exact (Nat.add_assoc 2 q 2 ▸ hget 2).trans rfl
  have g3 : w.input[2 + (q + 3)]? = some (BitVec.ofNat 8 (65535 - p.length)) := by
    exact (Nat.add_assoc 2 q 3 ▸ hget 3).trans rfl
  have g4 : w.input[2 + (q + 3 + 1)]? = some (BitVec.ofNat 8 ((65535 - p.length) / 256)) := by
    exact (Nat.add_assoc 2 q 4 ▸ hget 4).trans rfl
  have r0 := readLsb_header g0
  have r1 := readLsb_word g1 g2
  have r2 := readLsb_word g3 g4
  rw [le16_toNat _ hp] at r1
  rw [le16_toNat _ (by omega)] at r2
  have hlen : w.input.length = 2 + q + (storedPiece last p ++ rest).length := by
    have h1 := congrArg List.length hin
    have h2 : (storedPiece last p ++ rest).length ≠ 0 := by simp [storedPiece]
    rw [List.length_drop] at h1
    omega
  have hdrop : (w.input.drop (2 + (q + 5))).take p.length = p := by
    have e : w.input.drop (2 + (q + 5)) = (w.input.drop (2 + q)).drop 5 := by
      rw [List.drop_drop]; congr 1
    rw [e, hin]
    simp [storedPiece, le16]
  have halign : alignUp (8 * q + 3) = 8 * (q + 1) := by unfold alignUp; omega
  have hb : last.toNat / 2 = 0 := by cases last <;> rfl
  have hf : (last.toNat % 2 == 1) = last := by cases last <;> rfl
  have e3 : 8 * (q + 1) + 16 = 8 * (q + 3) := by omega
  have e5 : 8 * (q + 3) + 16 = 8 * (q + 5) := by omega
  have hstart : 8 * (q + 5) / 8 = q + 5 := by omega
  have hle : ¬ (2 + (q + 5) + p.length > w.input.length) := by
    rw [hlen]; simp [storedPiece, le16]; omega
  refine ⟨afterBlock { w with inf := { w.inf with
    bfinal := last, infl := w.inf.infl ++ p, bitPos := 8 * (q + 5) + 8 * p.length } }, ?_, ?_⟩
  · simp only [streamNext, fetch, hphase, readField, hpos, r0, decodeBlockHeader, hb, hf, runSymbol,
      deflateBlockStored, halign, r1, e3, r2, complement16 _ hp, ne_eq, not_true_eq_false, if_false, e5,
      hstart, hle, hdrop]
  · refine ⟨by simp [afterBlock], by simp [afterBlock], by simp [afterBlock], ?_, by simp [afterBlock]⟩
    simp only [afterBlock]; omega

theorem unpack32_append (a : BitVec 32) :
    BitVec.ofNat 8 (a.toNat / 16777216) ++ BitVec.ofNat 8 (a.toNat / 65536)
      ++ BitVec.ofNat 8 (a.toNat / 256) ++ BitVec.ofNat 8 a.toNat = a := by
  apply BitVec.eq_of_toNat_eq
  have ha := a.isLt
  simp only [BitVec.toNat_append, BitVec.toNat_ofNat, Nat.shiftLeft_eq]
  have or_add : ∀ x y : Nat, y < 2 ^ 8 → x * 2 ^ 8 ||| y = x * 2 ^ 8 + y := by
    intro x y hy
    rw [← Nat.shiftLeft_eq, Nat.shiftLeft_add_eq_or_of_lt hy]
  rw [or_add _ _ (by omega), or_add _ _ (by omega), or_add _ _ (by omega)]
  omega

/-- The trailer of the inflated bytes ends the decode with them (R310). -/
theorem streamNext_trailer (w : Work) (q : Nat) (hphase : w.phase = .trailer) (hpos : w.inf.bitPos = 8 * q)
    (hparams : w.params = none) (hin : w.input.drop (2 + q) = unpack32 (adler32 w.inf.infl).toNat) :
    ∃ w', streamNext w = .done w' ∧ w'.out = w.inf.infl := by
  have halign : alignUp (8 * q) = 8 * q := by unfold alignUp; omega
  have hq : 8 * q / 8 = q := by omega
  refine ⟨{ w with inf := { w.inf with bitPos := 8 * q + 32 }, ip := 2 + (8 * q + 32) / 8, out := w.inf.infl }, ?_, rfl⟩
  simp only [streamNext, fetch, hphase, hpos, halign, hq, hin, unpack32, List.take, decodeTrailer, runSymbol,
    zlibTrailer, unpack32_append, if_true, hparams]

/-- The decode loop over the stored blocks of `z` and the trailer delivers `z` after what was inflated
before (R293, R294, R310). -/
theorem runStream_storedBlocks (k : Nat) : ∀ (z : Bytes) (w : Work) (q fuel : Nat), z.length ≤ k →
    k + 2 ≤ fuel → w.phase = .blockHeader → w.inf.bitPos = 8 * q → w.params = none →
    w.input.drop (2 + q) = storedBlocks k z ++ unpack32 (adler32 (w.inf.infl ++ z)).toNat →
    ∃ w', runStream inflating fuel w = .done w' ∧ w'.out = w.inf.infl ++ z := by
  have lastPiece : ∀ (z : Bytes) (w : Work) (q fuel : Nat), z.length ≤ 65535 → 2 ≤ fuel →
      w.phase = .blockHeader → w.inf.bitPos = 8 * q → w.params = none →
      w.input.drop (2 + q) = storedPiece true z ++ unpack32 (adler32 (w.inf.infl ++ z)).toNat →
      ∃ w', runStream inflating fuel w = .done w' ∧ w'.out = w.inf.infl ++ z := by
    intro z w q fuel hz hf hphase hpos hparams hin
    obtain ⟨f, rfl⟩ : ∃ f, fuel = f + 1 + 1 := ⟨fuel - 2, by omega⟩
    obtain ⟨w1, h1, hp1, hi1, hpar1, hb1, hinf1⟩ := streamNext_storedPiece w q true z _ hphase hpos hz hin
    have hdrop : w1.input.drop (2 + (q + 5 + z.length)) = unpack32 (adler32 w1.inf.infl).toNat := by
      have e : w1.input.drop (2 + (q + 5 + z.length)) = (w.input.drop (2 + q)).drop (5 + z.length) := by
        rw [hi1, List.drop_drop]; congr 1; omega
      have hl : (storedPiece true z).length = 5 + z.length := by simp [storedPiece, le16]; omega
      rw [e, hin, hinf1, ← hl, List.drop_left]
    obtain ⟨w2, h2, ho2⟩ := streamNext_trailer w1 _ (by simpa using hp1) hb1 (by rw [hpar1, hparams]) hdrop
    refine ⟨w2, ?_, by rw [ho2, hinf1]⟩
    simp [runStream, inflating, hphase, h1, hp1, h2]
  induction k with
  | zero =>
    intro z w q fuel hz hf hphase hpos hparams hin
    exact lastPiece z w q fuel (by omega) hf hphase hpos hparams (by simpa [storedBlocks] using hin)
  | succ k ih =>
    intro z w q fuel hz hf hphase hpos hparams hin
    by_cases hs : z.length ≤ 65535
    · exact lastPiece z w q fuel hs (by omega) hphase hpos hparams (by simpa [storedBlocks, hs] using hin)
    · obtain ⟨f, rfl⟩ : ∃ f, fuel = f + 1 := ⟨fuel - 1, by omega⟩
      have htake : (z.take 65535).length = 65535 := by rw [List.length_take]; omega
      have hin' : w.input.drop (2 + q) = storedPiece false (z.take 65535) ++
          (storedBlocks k (z.drop 65535) ++ unpack32 (adler32 (w.inf.infl ++ z)).toNat) := by
        rw [hin, storedBlocks, if_neg hs, List.append_assoc]
      obtain ⟨w1, h1, hp1, hi1, hpar1, hb1, hinf1⟩ :=
        streamNext_storedPiece w q false _ _ hphase hpos (by omega) hin'
      have hcat : w1.inf.infl ++ z.drop 65535 = w.inf.infl ++ z := by
        rw [hinf1, List.append_assoc, List.take_append_drop]
      have hplen : (storedPiece false (z.take 65535)).length = 5 + (z.take 65535).length := by
        simp [storedPiece, le16]; omega
      have hdrop : w1.input.drop (2 + (q + 5 + (z.take 65535).length)) =
          storedBlocks k (z.drop 65535) ++ unpack32 (adler32 (w1.inf.infl ++ z.drop 65535)).toNat := by
        have e : w1.input.drop (2 + (q + 5 + (z.take 65535).length)) =
            (w.input.drop (2 + q)).drop (5 + (z.take 65535).length) := by
          rw [hi1, List.drop_drop]; congr 1; omega
        rw [e, hin', hcat, ← hplen, List.drop_left]
      obtain ⟨w2, h2, ho2⟩ := ih (z.drop 65535) w1 _ f (by rw [List.length_drop]; omega) (by omega)
        (by simpa using hp1) hb1 (by rw [hpar1, hparams]) hdrop
      refine ⟨w2, ?_, by rw [ho2, hcat]⟩
      have hlive : inflating w = true := by simp [inflating, hphase]
      simp [runStream, hlive, h1, h2]

theorem length_storedBlocks (k : Nat) : ∀ z : Bytes, z.length ≤ (storedBlocks k z).length := by
  induction k with
  | zero => intro z; simp [storedBlocks, storedPiece]; omega
  | succ k ih =>
    intro z
    unfold storedBlocks
    split
    · simp [storedPiece]; omega
    · have := ih (z.drop 65535)
      simp only [List.length_append, List.length_drop, storedPiece, List.length_cons, List.length_take] at *
      omega

/-- What `zFinish` emits inflates to what was fed (R320). -/
theorem inflate_storedFinish (z : Bytes) : inflate (storedFinish z) = some z := by
  let w0 : Work := { flateStart (storedFinish z) none with phase := .blockHeader, inf := .start }
  have hstart : streamNext (flateStart (storedFinish z) none) = .running w0 := by
    simp [streamNext, fetch, flateStart, storedFinish, runSymbol, zlibHeader, zlibHeaderOk, w0]
  obtain ⟨w', hrun, hout⟩ := runStream_storedBlocks z.length z w0 0
    (8 * (storedFinish z).length + 1) (Nat.le_refl _)
    (by have := length_storedBlocks z.length z; simp [storedFinish]; omega) rfl rfl rfl
    (by simp [w0, flateStart, storedFinish, InflateRegs.start])
  have hlive : inflating (flateStart (storedFinish z) none) = true := rfl
  have hall : inflateRun (storedFinish z) none = .done w' := by
    unfold inflateRun
    rw [show 8 * (storedFinish z).length + 2 = (8 * (storedFinish z).length + 1) + 1 by omega]
    rw [runStream, if_pos hlive, hstart]
    exact hrun
  simp [inflate, zlibInflate, hall, hout, w0, InflateRegs.start]

theorem feedAll_stored (bs : List Bytes) : ∀ z : ZState,
    feedAll storedFeed z bs = (z ++ bs.flatten, []) := by
  induction bs with
  | nil => intro z; simp [feedAll]
  | cons b bs ih => intro z; simp [feedAll, storedFeed, ih]

/-- `StoredDeflate` satisfies FlateContract (R320, R184). -/
theorem storedDeflate_contract : FlateContract inflate storedInit storedFeed storedFinish := by
  intro bs
  rw [feedAll_stored]
  simpa [storedInit] using inflate_storedFinish bs.flatten

end Sys2Proof.Machine
end

