-- ==== Sys2Proof/Machine/Encoder.lean ====
section
/-! DEFINITION. The FLATE compressor (42_flate.md R184, R190, decision D19): three functions over an opaque
context of which the machine knows the property FlateContract and nothing else. Then all the parameters of the
model (00_scope.md R13) as one argument. -/

namespace Sys2Proof

/-- A compressor that satisfies FlateContract (R184). The values after `:=` say only that one exists, the
stored-block encoder of R320. -/
structure Machine.Encoder where
  /-- `zInit` (R184). -/
  zInit : Machine.ZState := Machine.storedInit
  /-- `zFeed`: the context after some input, and the compressed bytes that became available (R184). -/
  zFeed : Machine.ZState → Bytes → Machine.ZState × Bytes := Machine.storedFeed
  /-- `zFinish`: the rest of the stream (R184). -/
  zFinish : Machine.ZState → Bytes := Machine.storedFinish
  /-- FlateContract (R184). -/
  contract : Machine.FlateContract Machine.inflate zInit zFeed zFinish := by exact Machine.storedDeflate_contract
deriving Inhabited

/-- Free value: the compressor of the implementation (R183, R184, U9). Nothing of it is known but that it
satisfies FlateContract. -/
opaque Config.encoder : Machine.Encoder

/-- The named parameters of the model (R13). Every meaning that depends on one takes them as an argument, whose
default is `Config.parameters`. -/
structure Parameters extends StreamParameters where
  /-- `Inflate`: `none` for `error` (R190). -/
  inflate : Bytes → Option Bytes
  /-- `Deflate` in its streaming form: `zInit` (R184). -/
  zInit : Machine.ZState
  /-- `zFeed` (R184). -/
  zFeed : Machine.ZState → Bytes → Machine.ZState × Bytes
  /-- `zFinish` (R184). -/
  zFinish : Machine.ZState → Bytes
  /-- FlateContract (R184). -/
  contract : Machine.FlateContract inflate zInit zFeed zFinish
  /-- `FLATE_BUF` (R186). -/
  flateBuf : Nat
  one_le_flateBuf : 1 ≤ flateBuf
  /-- `FLATE_CHUNK` (R186). -/
  flateChunk : Nat
  one_le_flateChunk : 1 ≤ flateChunk
  /-- `SinkAccepts` (R67), with the number of the draw. -/
  sinkAccepts : Nat → SinkId → Bytes → Bytes → Bool

/-- The parameters of the machine the host runs: the values that R13 recommends, and free values where it
leaves a parameter OPEN or free. -/
def Config.parameters : Parameters where
  toStreamParameters := Config.stream
  inflate := Machine.inflate
  zInit := Config.encoder.zInit
  zFeed := Config.encoder.zFeed
  zFinish := Config.encoder.zFinish
  contract := Config.encoder.contract
  flateBuf := Config.flateBuf
  one_le_flateBuf := Nat.succ_pos _
  flateChunk := Config.flateChunk
  one_le_flateChunk := Nat.succ_pos _
  sinkAccepts := Config.sinkAccepts

end Sys2Proof
end

