-- ==== Sys2Proof/Machine/State.lean ====
section
/-! DEFINITION. The state of one block instance (10_state.md): the persistent registers, the transient
registers of a running `DECODE`, the result of the last command, the sinks, and the host's side of the
command and sink ports. -/

namespace Sys2Proof.Machine

/-- The only fault. A bad operand, a broken stream, a refused write are statuses (R340, R341) and the
machine goes on. -/
inductive Fault where
  /-- A `DECODE` loop did not end within its budget of turns. Raised by `deliver` (Machine/Ops.lean). R400
  says that every loop ends, and the budgets cover every loop, so no command raises it. Safe: the machine
  stops. -/
  | streamBudget
deriving DecidableEq, Repr

/-- The only refusal. -/
inductive Refusal where
  /-- An instruction without a meaning. Raised by no arm of `exec`. Safe: the machine stops. -/
  | notModelled (mnemonic : String)
deriving DecidableEq, Repr

/-- `U.active` and `U.sink` of one unit (R22, R23). -/
structure Session where
  active : Bool
  sink : SinkId
deriving DecidableEq, Repr

/-- No sink bound (R46). -/
def Session.inactive : Session := ⟨false, 0⟩

/-- The address space `SINKS` (R60, R66): the bytes each sink has accepted, as a list of sinks in one
canonical form (`Memory.wf`). An unlisted sink has accepted nothing. -/
abbrev Memory := List (SinkId × Bytes)

/-- The canonical form: sink numbers strictly rising, no sink listed with no bytes. -/
def Memory.wf : Memory → Bool
  | [] => true
  | (s, b) :: m => !b.isEmpty && m.all (fun e => s.toNat < e.1.toNat) && Memory.wf m

/-- What the host does at the command port: it issues a command (R90), or applies `RESET` (R380). -/
inductive HostEvent where
  | command (c : CommandWord)
  | reset
deriving DecidableEq, Repr

/-- One sink write as the implementation and the environment decide it: how many bytes it offers (R68) and
whether the sink accepts them (R67). -/
structure WriteAnswer where
  size : Nat
  accepts : Bool
deriving DecidableEq, Repr

/-- The state of one block instance and of its ports. `RLE.active`, `LZW.active` and their sinks are
hard-wired (R22) and have no storage: `State.session` reads them. -/
structure State where
  /-- `HEX.active`, `HEX.sink` (R22, R23). -/
  hex : Session
  /-- `A85.active`, `A85.sink` (R22, R23). -/
  a85 : Session
  /-- `FLATE.active`, `FLATE.sink` (R22, R23). -/
  flate : Session
  /-- `A85.tuple` (R27). -/
  a85Tuple : BitVec 32
  /-- `A85.count` (R27). -/
  a85Count : BitVec 3
  /-- `FLATE.z` (R30). -/
  flateZ : ZState
  /-- `STATUS` of the last command (R35, R93). -/
  status : Status
  /-- `OUT` of the last command (R62, R93). -/
  out : Bytes
  /-- The transient registers (R20). -/
  work : Work
  /-- `SINKS` (R66). -/
  sinks : Memory
  /-- The model's own: what the host will do next at the command port, in order (R391). -/
  port : List HostEvent
  /-- The model's own: the decisions about the next sink writes, in order; past its end they are free
  (R67, R68). -/
  answers : List WriteAnswer
  /-- The model's own: the number of sink writes so far, which numbers the free decisions. -/
  draws : Nat
deriving DecidableEq, Repr

/-- The machine with the parameters `P` right after reset (R46, R380), with nothing issued and no sink written. -/
def State.resetWith (P : Parameters) : State where
  hex := .inactive
  a85 := .inactive
  flate := .inactive
  a85Tuple := 0
  a85Count := 0
  flateZ := P.zInit
  status := .ok
  out := []
  work := .idle
  sinks := []
  port := []
  answers := []
  draws := 0

/-- The machine right after reset (R46, R380), with the parameters that R13 gives. -/
def State.reset : State := .resetWith Config.parameters

end Sys2Proof.Machine
end

