-- ==== Sys2Proof/Machine/Flags.lean ====
section
/-! DEFINITION. The status codes (60_exceptions.md R341) and the session flags (10_state.md R22, R23), each
through the one operation that reads or writes it. -/

namespace Sys2Proof.Machine

/-- The 4-bit code of a status (R341, decision D4). -/
def Status.code : Status → BitVec 4
  | .ok => 0
  | .invalidState => 1
  | .invalidArgument => 2
  | .invalidHandle => 3
  | .outOfMemory => 4
  | .valueOutOfRange => 5
  | .invalidPredictor => 6
  | .unsupportedOperation => 7
  | .decompressionError => 8
  | .sinkFailure => 9

/-- `U.active` and `U.sink` (R22, R23); those of RLE and LZW are hard-wired to inactive and null. -/
def State.session (s : State) : UnitId → Session
  | .hex => s.hex
  | .a85 => s.a85
  | .flate => s.flate
  | .rle => .inactive
  | .lzw => .inactive

/-- Writing `U.active` and `U.sink` (R22, R23); a write to RLE or LZW is discarded. -/
def State.setSession (s : State) (u : UnitId) (x : Session) : State :=
  match u with
  | .hex => { s with hex := x }
  | .a85 => { s with a85 := x }
  | .flate => { s with flate := x }
  | .rle => s
  | .lzw => s

/-- `U.active` (R22). -/
def State.active (s : State) (u : UnitId) : Bool := (s.session u).active

/-- `U.sink` (R23). -/
def State.sink (s : State) (u : UnitId) : SinkId := (s.session u).sink

end Sys2Proof.Machine
end

