-- ==== Sys2Proof/Machine/Operands.lean ====
section
/-! DEFINITION. What a command takes and gives at its port (30_encoding.md R92, R93). -/

namespace Sys2Proof.Machine

/-- The null sink, which is never bound (R66). -/
def isNullSink (s : SinkId) : Bool := s == 0

/-- The result of a command as the host sees it (R93): the status code, the bytes, their number. -/
structure Response where
  status : BitVec 4
  out : Bytes
  length : Nat
deriving DecidableEq, Repr

/-- The result of the last command (R93). -/
def State.response (s : State) : Response := ⟨s.status.code, s.out, s.out.length⟩

end Sys2Proof.Machine
end

