-- ==== Sys2Proof/Machine/Ops.lean ====
section
/-! DEFINITION. The shared operations: the sink port (20_memory.md R66 to R68), the end of a command with
`return` or with `raise E` (60_exceptions.md R350 to R352), the skeleton of the encode commands, and the
delivery of a decode. -/

namespace Sys2Proof.Machine

/-! ## SINKS -/

/-- `SINKS[s]` (R66). -/
def Memory.read : Memory → SinkId → Bytes
  | [], _ => []
  | (t, b) :: m, s => if t = s then b else Memory.read m s

/-- `SINKS[s] <- SINKS[s] ++ bytes` (R66), in canonical form. -/
def Memory.append : Memory → SinkId → Bytes → Memory
  | [], s, bytes => if bytes = [] then [] else [(s, bytes)]
  | (t, b) :: m, s, bytes =>
    if t = s then (t, b ++ bytes) :: m
    else if s.toNat < t.toNat then
      if bytes = [] then (t, b) :: m else (s, bytes) :: (t, b) :: m
    else (t, b) :: Memory.append m s bytes

/-- How many bytes the next write asks to offer (R68): the next listed decision, else a free one. -/
def State.wantedSize (P : Parameters) (s : State) (remaining : Bytes) : Nat :=
  match s.answers with
  | a :: _ => a.size
  | [] => Config.writeSize P.flateChunk s.draws remaining

/-- Whether the next write is accepted (R67): the next listed decision, else a free one. -/
def State.accepts (P : Parameters) (s : State) (sink : SinkId) (offered : Bytes) : Bool :=
  match s.answers with
  | a :: _ => a.accepts
  | [] => P.sinkAccepts s.draws sink (s.sinks.read sink) offered

/-- `SinkWrite` (R66): all the bytes are appended, or none and the write has failed. -/
def sinkWrite (P : Parameters) (sink : SinkId) (offered : Bytes) (s : State) : Bool × State :=
  let s' := { s with answers := s.answers.tail, draws := s.draws + 1 }
  if s.accepts P sink offered then (true, { s' with sinks := s.sinks.append sink offered }) else (false, s')

/-- The bytes one write offers: at least one, at most `cap`, at most what remains (R68, R186 a). -/
def writeLength (cap wanted remaining : Nat) : Nat := max 1 (min wanted (min cap remaining))

/-- The writes that carry `x`, in order, up to the first refused one (R68); at most `k` of them. -/
def emitWrites (P : Parameters) (cap : Nat) (sink : SinkId) : Nat → Bytes → State → Bool × State
  | 0, _, s => (true, s)
  | k + 1, x, s =>
    if x = [] then (true, s)
    else
      let n := writeLength cap (s.wantedSize P x) x.length
      match sinkWrite P sink (x.take n) s with
      | (true, s') => emitWrites P cap sink k (x.drop n) s'
      | (false, s') => (false, s')

/-- The most bytes one write of a unit carries: `FLATE_BUF` for FLATE (R186 a), no limit else (R68). -/
def writeCap (P : Parameters) (u : UnitId) (x : Bytes) : Nat :=
  match u with
  | .flate => P.flateBuf
  | .hex | .a85 | .rle | .lzw => x.length

/-- `emit(x)` of an encode command (R17, R68): whether every write was accepted, and the state after. Every
write carries a byte, so `x.length` writes suffice. -/
def emit (P : Parameters) (u : UnitId) (x : Bytes) (s : State) : Bool × State :=
  emitWrites P (writeCap P u x) (s.sink u) x.length x s

/-! ## The end of a command -/

/-- The result of a command (R93). -/
def respond (e : Status) (out : Bytes) (s : State) : State := { s with status := e, out := out }

/-- The unit's buffered encode data at its reset value (R352): the Ascii85 tuple and count, the released
compressor context, which is left at `zInit`. -/
def State.clearBuffers (s : State) (u : UnitId) (zInit : ZState) : State :=
  match u with
  | .a85 => { s with a85Tuple := 0, a85Count := 0 }
  | .flate => { s with flateZ := zInit }
  | .hex | .rle | .lzw => s

/-- The session ends: the sink is unbound and the buffered data released (R23, R352). -/
def closeSession (u : UnitId) (zInit : ZState) (s : State) : State :=
  (s.setSession u .inactive).clearBuffers u zInit

/-- What a fault leaves behind. -/
inductive FaultEffect where
  /-- Nothing changes (R351). -/
  | keepsState
  /-- The session is closed, a released compressor context left at `zInit` (R352). -/
  | closesSession (u : UnitId) (zInit : ZState)
  /-- The transient registers cease to exist (R350). -/
  | endsDecode
deriving DecidableEq, Repr

/-- `raise E` (R17, R340): the command ends with a fault, delivers no output, and has the effects of R350 to
R352. -/
def raise (f : FaultEffect) (e : Status) (s : State) : State :=
  match f with
  | .keepsState => respond e [] s
  | .closesSession u zInit => respond e [] (closeSession u zInit s)
  | .endsDecode => respond e [] { s with work := .idle }

/-- `return` of an encode command (R17, R93). -/
def returnOk (s : State) : State := respond .ok [] s

/-- `return` of a decode command (R17, R62): the output is the host's and the transient registers cease to
exist. -/
def returnOut (out : Bytes) (s : State) : State := respond .ok out { s with work := .idle }

/-! ## The encode commands -/

/-- `BEGIN_ENCODE` (R343, R344 a): `init` sets the unit's buffered data. -/
def beginEncode (u : UnitId) (sink : SinkId) (init : State → State) (s : State) : State :=
  if s.active u then raise .keepsState .invalidState s
  else if isNullSink sink then raise .keepsState .invalidHandle s
  else returnOk (init (s.setSession u ⟨true, sink⟩))

/-- The end of an encode command that emits `x` (R68, R354): `after` runs when every write was accepted. -/
def emitThen (P : Parameters) (u : UnitId) (x : Bytes) (after : State → State) (s : State) : State :=
  match emit P u x s with
  | (true, s') => returnOk (after s')
  | (false, s') => raise (.closesSession u P.zInit) .sinkFailure s'

/-- `ENCODE_BLOCK` (R343, R344 b): `feed` takes the input into the unit's buffered data and gives the bytes
to emit. -/
def encodeBlock (P : Parameters) (u : UnitId) (input : Option Bytes) (feed : Bytes → State → Bytes × State)
    (s : State) : State :=
  if !s.active u then raise .keepsState .invalidState s
  else
    match input with
    | none => raise (.closesSession u P.zInit) .invalidHandle s
    | some bytes => emitThen P u (feed bytes s).1 id (feed bytes s).2

/-- `END_ENCODE` (R343): `tail` is the rest of the encoded stream. -/
def endEncode (P : Parameters) (u : UnitId) (tail : State → Bytes) (s : State) : State :=
  if !s.active u then raise .keepsState .invalidState s
  else emitThen P u (tail s) (closeSession u P.zInit) s

/-! ## The decode commands -/

/-- The end of a decode (R62, R350). -/
def deliver (r : Progress) (s : State) : Host.Outcome State Fault Refusal :=
  match r with
  | .done w => .next (returnOut w.out s)
  | .raised e => .next (raise .endsDecode e s)
  | .running _ => .fault .streamBudget

/-- `DECODE` (R344 c): an absent input is a fault before anything else, a present one is decoded. -/
def decodeCommandBody (run : Bytes → Option Params → Progress) (input : Option Bytes) (p : Option Params)
    (s : State) : Host.Outcome State Fault Refusal :=
  match input with
  | none => .next (raise .endsDecode .invalidHandle s)
  | some bytes => deliver (run bytes p) s

/-- One stream symbol on the state: the running `DECODE` goes on, or ends as a decode command does. -/
def onWork (f : Work → Progress) (s : State) : Host.Outcome State Fault Refusal :=
  match f s.work with
  | .running w => .next { s with work := w }
  | .done w => .next (returnOut w.out s)
  | .raised e => .next (raise .endsDecode e s)

/-! ## RESET -/

/-- `RESET` (R380): every persistent register at its reset value; the sinks, what the host has yet to issue
and the environment stay (R381). -/
def resetBlock (s : State) (P : Parameters := Config.parameters) : State :=
  { State.resetWith P with sinks := s.sinks, port := s.port, answers := s.answers, draws := s.draws }

end Sys2Proof.Machine
end

