-- ==== Sys2Proof/Machine/A85.lean ====
section
/-! DEFINITION. Unit A85: its four commands (41_ascii85.md R150 to R160) and the symbols of its stream. -/

namespace Sys2Proof.Machine

/-- The five characters of a tuple, most significant base-85 digit first (R150). -/
def tupleChars (t : BitVec 32) : Bytes :=
  [BitVec.ofNat 8 (t.toNat / 52200625 + 33), BitVec.ofNat 8 (t.toNat / 614125 % 85 + 33),
    BitVec.ofNat 8 (t.toNat / 7225 % 85 + 33), BitVec.ofNat 8 (t.toNat / 85 % 85 + 33),
    BitVec.ofNat 8 (t.toNat % 85 + 33)]

/-- `EncodeTuple(T, k)`: the first k + 1 characters (R152). -/
def encodeTuple (t : BitVec 32) (k : Nat) : Bytes := (tupleChars t).take (k + 1)

/-- The tuple with a byte placed at position `n` of the group (R150, R153). -/
def placeByte (t : BitVec 32) (n : BitVec 3) (b : Byte) : BitVec 32 :=
  t ||| ((b.setWidth 32) <<< (8 * (3 - n.toNat)))

/-- The characters of a complete group: 'z' for the zero tuple, else five digits (R153, R154). -/
def groupText (t : BitVec 32) : Bytes := if t = 0 then [0x7A] else encodeTuple t 4

/-- The tuple, the count and the characters emitted after the input bytes, one at a time (R153). -/
def feedTuple : Bytes → BitVec 32 → BitVec 3 → BitVec 32 × BitVec 3 × Bytes
  | [], t, n => (t, n, [])
  | b :: bs, t, n =>
    if n + 1 = 4 then
      let r := feedTuple bs 0 0
      (r.1, r.2.1, groupText (placeByte t n b) ++ r.2.2)
    else feedTuple bs (placeByte t n b) (n + 1)

/-- What `A85.ENCODE_BLOCK` takes in and emits (R153). -/
def a85Feed (bytes : Bytes) (s : State) : Bytes × State :=
  let r := feedTuple bytes s.a85Tuple s.a85Count
  (r.2.2, { s with a85Tuple := r.1, a85Count := r.2.1 })

/-- The partial group that `A85.END_ENCODE` flushes, never as 'z' (R156). -/
def a85Tail (s : State) : Bytes :=
  if s.a85Count = 0 then [] else encodeTuple s.a85Tuple s.a85Count.toNat

/-- `A85.BEGIN_ENCODE s` (R151): the tuple and the count start at 0. -/
def execA85BeginEncode (sink : SinkId) (s : State) (P : Parameters := Config.parameters) :
    Host.Outcome State Fault Refusal :=
  .next (beginEncode .a85 sink (fun s => s.clearBuffers .a85 P.zInit) s)

/-- `A85.ENCODE_BLOCK IN` (R153). -/
def execA85EncodeBlock (input : Option Bytes) (s : State) (P : Parameters := Config.parameters) :
    Host.Outcome State Fault Refusal :=
  .next (encodeBlock P .a85 input a85Feed s)

/-- `A85.END_ENCODE` (R156). -/
def execA85EndEncode (s : State) (P : Parameters := Config.parameters) :
    Host.Outcome State Fault Refusal :=
  .next (endEncode P .a85 a85Tail s)

/-- `A85.DECODE IN [, PARAMS]` (R160); `PARAMS` is ignored (decision D30). -/
def execA85Decode (input : Option Bytes) (params : Option Params) (s : State) (P : Parameters := Config.parameters) :
    Host.Outcome State Fault Refusal :=
  decodeCommandBody (a85Run · · P.toStreamParameters) input params s

/-- a85.skip (R162). -/
def execA85Skip (c : Byte) (s : State) : Host.Outcome State Fault Refusal := onWork (a85Skip c) s
/-- a85.digit (R163). -/
def execA85Digit (c : Byte) (s : State) : Host.Outcome State Fault Refusal := onWork (a85Digit c) s
/-- a85.z (R164). -/
def execA85Z (s : State) : Host.Outcome State Fault Refusal := onWork a85Z s
/-- a85.terminator (R166). -/
def execA85Terminator (s : State) : Host.Outcome State Fault Refusal := onWork a85Terminator s
/-- a85.illegal (R167). -/
def execA85Illegal (c : Byte) (s : State) : Host.Outcome State Fault Refusal := onWork (a85Illegal c) s
/-- a85.end-of-data (R168). -/
def execA85EndOfData (s : State) : Host.Outcome State Fault Refusal := onWork a85EndOfData s

end Sys2Proof.Machine
end

