-- ==== Sys2Proof/Machine/Flate.lean ====
section
/-! DEFINITION. Unit FLATE: its four commands (42_flate.md R182 to R189). -/

namespace Sys2Proof.Machine

/-- What `FLATE.ENCODE_BLOCK` feeds to the compressor, and what became available (R185). -/
def flateFeed (P : Parameters) (bytes : Bytes) (s : State) : Bytes × State :=
  let r := P.zFeed s.flateZ bytes
  (r.2, { s with flateZ := r.1 })

/-- The final flush of the compressor (R187). -/
def flateTail (P : Parameters) (s : State) : Bytes := P.zFinish s.flateZ

/-- `FLATE.BEGIN_ENCODE s` (R182): the compressor starts at `zInit`. -/
def execFlateBeginEncode (sink : SinkId) (s : State) (P : Parameters := Config.parameters) :
    Host.Outcome State Fault Refusal :=
  .next (beginEncode .flate sink (fun s => s.clearBuffers .flate P.zInit) s)

/-- `FLATE.ENCODE_BLOCK IN` (R185). -/
def execFlateEncodeBlock (input : Option Bytes) (s : State) (P : Parameters := Config.parameters) :
    Host.Outcome State Fault Refusal :=
  .next (encodeBlock P .flate input (flateFeed P) s)

/-- `FLATE.END_ENCODE` (R187). -/
def execFlateEndEncode (s : State) (P : Parameters := Config.parameters) :
    Host.Outcome State Fault Refusal :=
  .next (endEncode P .flate (flateTail P) s)

/-- `FLATE.DECODE IN [, PARAMS]` (R189): inflate, then predictor reversal where `PARAMS` is present. -/
def execFlateDecode (input : Option Bytes) (params : Option Params) (s : State) (P : Parameters := Config.parameters) :
    Host.Outcome State Fault Refusal :=
  decodeCommandBody (flateRun P.inflate · · P.toStreamParameters) input params s

end Sys2Proof.Machine
end

