-- ==== Sys2Proof/Machine/Hex.lean ====
section
/-! DEFINITION. Unit HEX: its four commands (40_hex.md R130 to R134) and the symbols of its stream. -/

namespace Sys2Proof.Machine

/-- The character of a nibble (R97, R131). -/
def hexChar (v : BitVec 4) : Byte :=
  if v.toNat ≤ 9 then BitVec.ofNat 8 (0x30 + v.toNat) else BitVec.ofNat 8 (0x41 + v.toNat - 10)

/-- The characters of a byte sequence: for each byte its high then its low nibble (R131, R69). -/
def hexText : Bytes → Bytes
  | [] => []
  | b :: bs => hexChar (b.extractLsb' 4 4) :: hexChar (b.extractLsb' 0 4) :: hexText bs

/-- `HEX.BEGIN_ENCODE s` (R130). -/
def execHexBeginEncode (sink : SinkId) (s : State) : Host.Outcome State Fault Refusal :=
  .next (beginEncode .hex sink id s)

/-- `HEX.ENCODE_BLOCK IN` (R131). -/
def execHexEncodeBlock (input : Option Bytes) (s : State) (P : Parameters := Config.parameters) :
    Host.Outcome State Fault Refusal :=
  .next (encodeBlock P .hex input (fun bytes s => (hexText bytes, s)) s)

/-- `HEX.END_ENCODE` (R133): nothing is buffered. -/
def execHexEndEncode (s : State) (P : Parameters := Config.parameters) :
    Host.Outcome State Fault Refusal :=
  .next (endEncode P .hex (fun _ => []) s)

/-- `HEX.DECODE IN [, PARAMS]` (R134); `PARAMS` is ignored. -/
def execHexDecode (input : Option Bytes) (params : Option Params) (s : State) (P : Parameters := Config.parameters) :
    Host.Outcome State Fault Refusal :=
  decodeCommandBody (hexRun · · P.toStreamParameters) input params s

/-- hex.whitespace (R136). -/
def execHexWhitespace (c : Byte) (s : State) : Host.Outcome State Fault Refusal := onWork (hexWhitespace c) s
/-- hex.digit.0-9 (R137). -/
def execHexDigit09 (v : BitVec 4) (s : State) : Host.Outcome State Fault Refusal := onWork (hexDigit09 v) s
/-- hex.digit.A-F (R137). -/
def execHexDigitUpper (v : BitVec 3) (s : State) : Host.Outcome State Fault Refusal :=
  onWork (hexDigitUpper v) s
/-- hex.digit.a-f (R137). -/
def execHexDigitLower (v : BitVec 3) (s : State) : Host.Outcome State Fault Refusal :=
  onWork (hexDigitLower v) s
/-- hex.illegal (R138). -/
def execHexIllegal (c : Byte) (s : State) : Host.Outcome State Fault Refusal := onWork (hexIllegal c) s
/-- hex.end-of-input (R139). -/
def execHexEndOfInput (s : State) : Host.Outcome State Fault Refusal := onWork hexEndOfInput s

end Sys2Proof.Machine
end

