-- ==== Sys2Proof/Machine/Inflate.lean ====
section
/-! DEFINITION. The symbols of the zlib and DEFLATE streams (47_zlib_deflate_reference.md R291 to R310). -/

namespace Sys2Proof.Machine

/-- zlib.header (R291). -/
def execZlibHeader (cmf : Byte) (flg : Byte) (s : State) : Host.Outcome State Fault Refusal :=
  onWork (zlibHeader cmf flg) s
/-- deflate.block.stored (R294). -/
def execDeflateBlockStored (bfinal : Bool) (s : State) : Host.Outcome State Fault Refusal :=
  onWork (deflateBlockStored bfinal) s
/-- deflate.block.fixed (R297). -/
def execDeflateBlockFixed (bfinal : Bool) (s : State) : Host.Outcome State Fault Refusal :=
  onWork (deflateBlockFixed bfinal) s
/-- deflate.block.dynamic (R298, R299). -/
def execDeflateBlockDynamic (bfinal : Bool) (s : State) : Host.Outcome State Fault Refusal :=
  onWork (deflateBlockDynamic bfinal) s
/-- deflate.block.illegal (R293). -/
def execDeflateBlockIllegal (bfinal : Bool) (s : State) : Host.Outcome State Fault Refusal :=
  onWork (deflateBlockIllegal bfinal) s
/-- deflate.codelen.0-15 (R300). -/
def execDeflateCodelenLiteral (len : BitVec 4) (s : State) : Host.Outcome State Fault Refusal :=
  onWork (deflateCodelenLiteral len) s
/-- deflate.codelen.16 (R300). -/
def execDeflateCodelen16 (s : State) : Host.Outcome State Fault Refusal := onWork deflateCodelen16 s
/-- deflate.codelen.17 (R300). -/
def execDeflateCodelen17 (s : State) : Host.Outcome State Fault Refusal := onWork deflateCodelen17 s
/-- deflate.codelen.18 (R300). -/
def execDeflateCodelen18 (s : State) : Host.Outcome State Fault Refusal := onWork deflateCodelen18 s
/-- deflate.sym.literal (R303). -/
def execDeflateSymLiteral (b : Byte) (s : State) : Host.Outcome State Fault Refusal :=
  onWork (deflateSymLiteral b) s
/-- deflate.sym.end-of-block (R304). -/
def execDeflateSymEndOfBlock (s : State) : Host.Outcome State Fault Refusal := onWork deflateSymEndOfBlock s
/-- deflate.sym.length (R305). -/
def execDeflateSymLength (sym : BitVec 9) (s : State) : Host.Outcome State Fault Refusal :=
  onWork (deflateSymLength sym) s
/-- deflate.sym.distance (R306, R309). -/
def execDeflateSymDistance (sym : BitVec 5) (s : State) : Host.Outcome State Fault Refusal :=
  onWork (deflateSymDistance sym) s
/-- deflate.sym.illegal (R307). -/
def execDeflateSymIllegal (sym : BitVec 9) (s : State) : Host.Outcome State Fault Refusal :=
  onWork (deflateSymIllegal sym) s
/-- zlib.trailer (R310). -/
def execZlibTrailer (adler : BitVec 32) (s : State) (P : Parameters := Config.parameters) :
    Host.Outcome State Fault Refusal :=
  onWork (zlibTrailer adler · P.toStreamParameters) s

end Sys2Proof.Machine
end

