-- ==== Sys2Proof/Machine/Lzw.lean ====
section
/-! DEFINITION. Unit LZW: its four commands (45_lzw.md R261, R262) and its codes. -/

namespace Sys2Proof.Machine

/-- `LZW.BEGIN_ENCODE s` always fails, before any other check (R261). -/
def execLzwBeginEncode (_sink : SinkId) (s : State) : Host.Outcome State Fault Refusal :=
  .next (raise .keepsState .unsupportedOperation s)

/-- `LZW.ENCODE_BLOCK IN` always fails, before any other check (R261). -/
def execLzwEncodeBlock (_input : Option Bytes) (s : State) : Host.Outcome State Fault Refusal :=
  .next (raise .keepsState .unsupportedOperation s)

/-- `LZW.END_ENCODE` always fails, before any other check (R261). -/
def execLzwEndEncode (s : State) : Host.Outcome State Fault Refusal :=
  .next (raise .keepsState .unsupportedOperation s)

/-- `LZW.DECODE IN [, PARAMS]` (R262); `PARAMS` is ignored (decision D30). -/
def execLzwDecode (input : Option Bytes) (params : Option Params) (s : State) (P : Parameters := Config.parameters) :
    Host.Outcome State Fault Refusal :=
  decodeCommandBody (lzwRun · · P.toStreamParameters) input params s

/-- lzw.clear (R266). -/
def execLzwClear (s : State) : Host.Outcome State Fault Refusal := onWork lzwClear s
/-- lzw.eod (R274). -/
def execLzwEod (s : State) : Host.Outcome State Fault Refusal := onWork lzwEod s
/-- lzw.data.known (R267). -/
def execLzwKnown (code : BitVec 12) (s : State) : Host.Outcome State Fault Refusal :=
  onWork (lzwKnown code) s
/-- lzw.data.not-yet-defined (R269). -/
def execLzwNotYetDefined (code : BitVec 12) (s : State) : Host.Outcome State Fault Refusal :=
  onWork (lzwNotYetDefined code) s
/-- lzw.illegal (R268). -/
def execLzwIllegal (code : BitVec 12) (s : State) : Host.Outcome State Fault Refusal :=
  onWork (lzwIllegal code) s

end Sys2Proof.Machine
end

