-- ==== Sys2Proof/Machine/Predictor.lean ====
section
/-! DEFINITION. Predictor reversal: the Predictor classes and the PNG rows (43_predictor.md R210 to R222). -/

namespace Sys2Proof.Machine

/-- predictor.none (R211). -/
def execPredictorNone (s : State) : Host.Outcome State Fault Refusal := onWork predictorNone s
/-- predictor.tiff (R214). -/
def execPredictorTiff (s : State) : Host.Outcome State Fault Refusal := onWork predictorTiff s
/-- predictor.png (R213, R216). -/
def execPredictorPng (value : Int) (s : State) : Host.Outcome State Fault Refusal :=
  onWork (predictorPng value) s
/-- predictor.undefined (R215). -/
def execPredictorUndefined (value : Int) (s : State) : Host.Outcome State Fault Refusal :=
  onWork (predictorUndefined value) s
/-- png.tag.none (R217). -/
def execPngTagNone (s : State) : Host.Outcome State Fault Refusal := onWork pngTagNone s
/-- png.tag.sub (R218). -/
def execPngTagSub (s : State) : Host.Outcome State Fault Refusal := onWork pngTagSub s
/-- png.tag.up (R217). -/
def execPngTagUp (s : State) : Host.Outcome State Fault Refusal := onWork pngTagUp s
/-- png.tag.average (R219). -/
def execPngTagAverage (s : State) : Host.Outcome State Fault Refusal := onWork pngTagAverage s
/-- png.tag.paeth (R220). -/
def execPngTagPaeth (s : State) : Host.Outcome State Fault Refusal := onWork pngTagPaeth s
/-- png.tag.illegal (R221). -/
def execPngTagIllegal (tag : Byte) (s : State) : Host.Outcome State Fault Refusal :=
  onWork (pngTagIllegal tag) s

end Sys2Proof.Machine
end

