-- ==== Sys2Proof/Machine/Reserved.lean ====
section
/-! DEFINITION. The reserved command bytes (30_encoding.md R95). -/

namespace Sys2Proof.Machine

/-- A reserved command byte: `InvalidArgument` and no other effect (R95, R345 a). -/
def execReservedCommand (_cmd : Byte) (s : State) : Host.Outcome State Fault Refusal :=
  .next (raise .keepsState .invalidArgument s)

end Sys2Proof.Machine
end

