-- ==== Sys2Proof/Machine/Rle.lean ====
section
/-! DEFINITION. Unit RLE: its four commands (44_rle.md R241, R242) and its control bytes. -/

namespace Sys2Proof.Machine

/-- `RLE.BEGIN_ENCODE s` always fails, before any other check (R241). -/
def execRleBeginEncode (_sink : SinkId) (s : State) : Host.Outcome State Fault Refusal :=
  .next (raise .keepsState .unsupportedOperation s)

/-- `RLE.ENCODE_BLOCK IN` always fails, before any other check (R241). -/
def execRleEncodeBlock (_input : Option Bytes) (s : State) : Host.Outcome State Fault Refusal :=
  .next (raise .keepsState .unsupportedOperation s)

/-- `RLE.END_ENCODE` always fails, before any other check (R241). -/
def execRleEndEncode (s : State) : Host.Outcome State Fault Refusal :=
  .next (raise .keepsState .unsupportedOperation s)

/-- `RLE.DECODE IN [, PARAMS]` (R242); `PARAMS` is ignored (decision D30). -/
def execRleDecode (input : Option Bytes) (params : Option Params) (s : State) (P : Parameters := Config.parameters) :
    Host.Outcome State Fault Refusal :=
  decodeCommandBody (rleRun · · P.toStreamParameters) input params s

/-- rle.literal (R244). -/
def execRleLiteral (n : BitVec 7) (s : State) : Host.Outcome State Fault Refusal := onWork (rleLiteral n) s
/-- rle.eod (R245). -/
def execRleEod (s : State) : Host.Outcome State Fault Refusal := onWork rleEod s
/-- rle.replicate (R246). -/
def execRleReplicate (n : BitVec 7) (s : State) : Host.Outcome State Fault Refusal :=
  onWork (rleReplicate n) s

end Sys2Proof.Machine
end

