-- ==== Sys2Proof/Machine/Dispatch.lean ====
section
/-! DEFINITION. The meaning of every instruction: one arm per row of spec/opcode_table.json. -/

namespace Sys2Proof.Machine

def exec (i : Instr) (s : State) : Host.Outcome State Fault Refusal :=
  match i with
  | .hexBeginEncode sink => Sys2Proof.Machine.execHexBeginEncode sink s
  | .hexEncodeBlock input => Sys2Proof.Machine.execHexEncodeBlock input s
  | .hexEndEncode => Sys2Proof.Machine.execHexEndEncode s
  | .hexDecode input params => Sys2Proof.Machine.execHexDecode input params s
  | .a85BeginEncode sink => Sys2Proof.Machine.execA85BeginEncode sink s
  | .a85EncodeBlock input => Sys2Proof.Machine.execA85EncodeBlock input s
  | .a85EndEncode => Sys2Proof.Machine.execA85EndEncode s
  | .a85Decode input params => Sys2Proof.Machine.execA85Decode input params s
  | .flateBeginEncode sink => Sys2Proof.Machine.execFlateBeginEncode sink s
  | .flateEncodeBlock input => Sys2Proof.Machine.execFlateEncodeBlock input s
  | .flateEndEncode => Sys2Proof.Machine.execFlateEndEncode s
  | .flateDecode input params => Sys2Proof.Machine.execFlateDecode input params s
  | .rleBeginEncode sink => Sys2Proof.Machine.execRleBeginEncode sink s
  | .rleEncodeBlock input => Sys2Proof.Machine.execRleEncodeBlock input s
  | .rleEndEncode => Sys2Proof.Machine.execRleEndEncode s
  | .rleDecode input params => Sys2Proof.Machine.execRleDecode input params s
  | .lzwBeginEncode sink => Sys2Proof.Machine.execLzwBeginEncode sink s
  | .lzwEncodeBlock input => Sys2Proof.Machine.execLzwEncodeBlock input s
  | .lzwEndEncode => Sys2Proof.Machine.execLzwEndEncode s
  | .lzwDecode input params => Sys2Proof.Machine.execLzwDecode input params s
  | .reservedCommand cmd => Sys2Proof.Machine.execReservedCommand cmd s
  | .hexWhitespace c => Sys2Proof.Machine.execHexWhitespace c s
  | .hexDigit09 v => Sys2Proof.Machine.execHexDigit09 v s
  | .hexDigitUpper v => Sys2Proof.Machine.execHexDigitUpper v s
  | .hexDigitLower v => Sys2Proof.Machine.execHexDigitLower v s
  | .hexIllegal c => Sys2Proof.Machine.execHexIllegal c s
  | .hexEndOfInput => Sys2Proof.Machine.execHexEndOfInput s
  | .a85Skip c => Sys2Proof.Machine.execA85Skip c s
  | .a85Digit c => Sys2Proof.Machine.execA85Digit c s
  | .a85Z => Sys2Proof.Machine.execA85Z s
  | .a85Terminator => Sys2Proof.Machine.execA85Terminator s
  | .a85Illegal c => Sys2Proof.Machine.execA85Illegal c s
  | .a85EndOfData => Sys2Proof.Machine.execA85EndOfData s
  | .rleLiteral n => Sys2Proof.Machine.execRleLiteral n s
  | .rleEod => Sys2Proof.Machine.execRleEod s
  | .rleReplicate n => Sys2Proof.Machine.execRleReplicate n s
  | .lzwClear => Sys2Proof.Machine.execLzwClear s
  | .lzwEod => Sys2Proof.Machine.execLzwEod s
  | .lzwKnown code => Sys2Proof.Machine.execLzwKnown code s
  | .lzwNotYetDefined code => Sys2Proof.Machine.execLzwNotYetDefined code s
  | .lzwIllegal code => Sys2Proof.Machine.execLzwIllegal code s
  | .predictorNone => Sys2Proof.Machine.execPredictorNone s
  | .predictorTiff => Sys2Proof.Machine.execPredictorTiff s
  | .predictorPng value => Sys2Proof.Machine.execPredictorPng value s
  | .predictorUndefined value => Sys2Proof.Machine.execPredictorUndefined value s
  | .pngTagNone => Sys2Proof.Machine.execPngTagNone s
  | .pngTagSub => Sys2Proof.Machine.execPngTagSub s
  | .pngTagUp => Sys2Proof.Machine.execPngTagUp s
  | .pngTagAverage => Sys2Proof.Machine.execPngTagAverage s
  | .pngTagPaeth => Sys2Proof.Machine.execPngTagPaeth s
  | .pngTagIllegal tag => Sys2Proof.Machine.execPngTagIllegal tag s
  | .zlibHeader cmf flg => Sys2Proof.Machine.execZlibHeader cmf flg s
  | .deflateBlockStored bfinal => Sys2Proof.Machine.execDeflateBlockStored bfinal s
  | .deflateBlockFixed bfinal => Sys2Proof.Machine.execDeflateBlockFixed bfinal s
  | .deflateBlockDynamic bfinal => Sys2Proof.Machine.execDeflateBlockDynamic bfinal s
  | .deflateBlockIllegal bfinal => Sys2Proof.Machine.execDeflateBlockIllegal bfinal s
  | .deflateCodelenLiteral len => Sys2Proof.Machine.execDeflateCodelenLiteral len s
  | .deflateCodelen16 => Sys2Proof.Machine.execDeflateCodelen16 s
  | .deflateCodelen17 => Sys2Proof.Machine.execDeflateCodelen17 s
  | .deflateCodelen18 => Sys2Proof.Machine.execDeflateCodelen18 s
  | .deflateSymLiteral b => Sys2Proof.Machine.execDeflateSymLiteral b s
  | .deflateSymEndOfBlock => Sys2Proof.Machine.execDeflateSymEndOfBlock s
  | .deflateSymLength sym => Sys2Proof.Machine.execDeflateSymLength sym s
  | .deflateSymDistance sym => Sys2Proof.Machine.execDeflateSymDistance sym s
  | .deflateSymIllegal sym => Sys2Proof.Machine.execDeflateSymIllegal sym s
  | .zlibTrailer adler => Sys2Proof.Machine.execZlibTrailer adler s

end Sys2Proof.Machine
end

