-- ==== Sys2Proof/Machine/Parametric.lean ====
section
/-! DEFINITION. The machine as a function of the parameters of the model (00_scope.md R13). `exec`, `step`,
`State.reset` and `Sys2Proof.core` are this machine at `Config.parameters`, the values R13 gives
(Sys2Proof/Laws/Parametric.lean). -/

namespace Sys2Proof.Machine

/-- The meaning of every instruction with the parameters `P`. The instructions of the last arm depend on no
parameter. -/
def execWith (P : Parameters) (i : Instr) (s : State) : Host.Outcome State Fault Refusal :=
  match i with
  | .hexEncodeBlock input => execHexEncodeBlock input s P
  | .hexEndEncode => execHexEndEncode s P
  | .hexDecode input params => execHexDecode input params s P
  | .a85BeginEncode sink => execA85BeginEncode sink s P
  | .a85EncodeBlock input => execA85EncodeBlock input s P
  | .a85EndEncode => execA85EndEncode s P
  | .a85Decode input params => execA85Decode input params s P
  | .flateBeginEncode sink => execFlateBeginEncode sink s P
  | .flateEncodeBlock input => execFlateEncodeBlock input s P
  | .flateEndEncode => execFlateEndEncode s P
  | .flateDecode input params => execFlateDecode input params s P
  | .rleDecode input params => execRleDecode input params s P
  | .lzwDecode input params => execLzwDecode input params s P
  | .zlibTrailer adler => execZlibTrailer adler s P
  | .hexBeginEncode _ | .rleBeginEncode _ | .rleEncodeBlock _ | .rleEndEncode | .lzwBeginEncode _
  | .lzwEncodeBlock _ | .lzwEndEncode | .reservedCommand _ | .hexWhitespace _ | .hexDigit09 _
  | .hexDigitUpper _ | .hexDigitLower _ | .hexIllegal _ | .hexEndOfInput | .a85Skip _ | .a85Digit _
  | .a85Z | .a85Terminator | .a85Illegal _ | .a85EndOfData | .rleLiteral _ | .rleEod | .rleReplicate _
  | .lzwClear | .lzwEod | .lzwKnown _ | .lzwNotYetDefined _ | .lzwIllegal _ | .predictorNone
  | .predictorTiff | .predictorPng _ | .predictorUndefined _ | .pngTagNone | .pngTagSub | .pngTagUp
  | .pngTagAverage | .pngTagPaeth | .pngTagIllegal _ | .zlibHeader _ _ | .deflateBlockStored _
  | .deflateBlockFixed _ | .deflateBlockDynamic _ | .deflateBlockIllegal _ | .deflateCodelenLiteral _
  | .deflateCodelen16 | .deflateCodelen17 | .deflateCodelen18 | .deflateSymLiteral _
  | .deflateSymEndOfBlock | .deflateSymLength _ | .deflateSymDistance _ | .deflateSymIllegal _ => exec i s

/-- One step around the meanings `run`. While no command runs, the next command is taken from the port, decoded
and run whole, or `RESET` is applied; with nothing issued the block idles (R364). In a state whose transient
registers hold a `DECODE` in progress, the next symbol of its stream is read and run (R5), or the stop condition
of R117 ends the command. -/
def stepBy (P : Parameters) (run : Instr → State → Host.Outcome State Fault Refusal) (s : State) :
    Host.Outcome State Fault Refusal :=
  if s.work.phase = .idle then
    match s.port with
    | [] => .next s
    | .reset :: rest => .next (resetBlock { s with port := rest } P)
    | .command c :: rest => run (decodeCommand c P.toStreamParameters) { s with port := rest }
  else
    match fetch s.work P.toStreamParameters with
    | .symbol i w => run i { s with work := w }
    | .stop => .next (returnOut s.work.out s)
    | .bad e => .next (raise .endsDecode e s)

/-- One step with the parameters `P`. -/
def stepWith (P : Parameters) (s : State) : Host.Outcome State Fault Refusal := stepBy P (execWith P) s

/-- The machine with the parameters `P`, as the host's interface has machines. -/
def coreWith (P : Parameters) : Host.Core :=
  { State := State, Fault := Fault, Refusal := Refusal, step := stepWith P, reset := .resetWith P }

end Sys2Proof.Machine
end

