-- ==== Sys2Proof/Machine/Step.lean ====
section
/-! DEFINITION. One step: the next thing the host does at the command port, run to completion (20_memory.md
R76, R79; 70_reset_and_hazards.md R391, R400). -/

namespace Sys2Proof.Machine

/-- One step of the machine with the parameters that R13 gives: `stepBy` (Machine/Parametric.lean) around
`exec`. -/
def step (s : State) : Host.Outcome State Fault Refusal := stepBy Config.parameters exec s

/-- The transient registers of a `DECODE` whose next symbol has the table bits `w` in a stream language: the
symbol's own bits, and zeros after them. -/
def tableWork (f : Format) (w : Nat) : Work :=
  let byte : Bytes := [BitVec.ofNat 8 w]
  match f with
  | .cmd => Work.idle
  | .hexChar => hexStart byte none
  | .a85Char => a85Start byte none
  | .rleCtl => rleStart byte none
  | .lzwCode =>
    { lzwStart [BitVec.ofNat 8 (w / 16), BitVec.ofNat 8 (w * 16)] none with
      lzw := { LzwRegs.start with codeLength := 12 } }
  | .zlibHdr => flateStart [BitVec.ofNat 8 w, BitVec.ofNat 8 (w / 256)] none
  | .predictor =>
    { Work.idle with
      phase := .predictor, pred := { PredictorRegs.start with predictor := twosComplement Config.paramWidth w } }
  | .pngRow | .zlibTrl | .deflateBlk | .deflateCl | .deflateLitLen | .deflateDist => Work.idle

/-- `s` with an instruction of the table where `step` fetches next: a command at the head of the port, its
operands zero; a symbol as the next of a `DECODE` in progress. -/
def State.withFetchWord (s : State) (nbits w : Nat) : State :=
  match tableFormat nbits w with
  | none => s
  | some .cmd => { s with work := Work.idle, port := .command (bareCommand w) :: s.port }
  | some f => { s with work := tableWork f w }

end Sys2Proof.Machine
end

