-- ==== Sys2Proof/Safety.lean ====
section
/-! DEFINITION. What counts as a safe run, the invariants of the machine (10_state.md R24 to R47), and the
terms the statements use: sink writes that the environment accepts, sessions of commands, and descriptions
of the stream languages and of the predictor that are written apart from the machine's own functions. -/

namespace Sys2Proof.Machine

/-! ## Safe runs -/

/-- No run from `s` meets a fault or a refusal of the model: every error of the block is a status and the
machine goes on (R340, R400). -/
def State.safe (s : State) : Prop := ∀ k, ∃ t, Host.Core.run Sys2Proof.core k s = .next t

/-! ## The invariants -/

/-- I-a of R47: a unit is active exactly while a sink other than the null sink is bound. -/
def Session.coherent (x : Session) : Prop := x.active = true ↔ x.sink ≠ 0

/-- I-c of R47: while A85 is active its tuple holds `count` bytes, at most 3, and zeros below them. -/
def State.tupleCoherent (s : State) : Prop :=
  s.a85.active = true →
    s.a85Count.toNat ≤ 3 ∧ s.a85Tuple.toNat % 2 ^ (8 * (4 - s.a85Count.toNat)) = 0

/-- What holds between commands (R47, R62, R66). -/
structure State.SessionInv (s : State) : Prop where
  /-- I-a and I-b of R47. -/
  sessions : ∀ u, (s.session u).coherent
  /-- I-c of R47. -/
  tuple : s.tupleCoherent
  /-- The sinks are in canonical form. -/
  memory : s.sinks.wf = true
  /-- The null sink has accepted nothing (R66). -/
  nullSink : s.sinks.read 0 = []
  /-- A command that did not end with `OK` has delivered no output (R62, R93, R350). -/
  response : s.status ≠ .ok → s.out = []

/-- The width of the next LZW code while the table has `size` entries (R271). -/
def lzwWidth (size : Nat) : Nat :=
  if size < 511 then 9 else if size < 1023 then 10 else if size < 2047 then 11 else 12

/-- What holds of the LZW registers (R34, R40, R41, R269 to R271). -/
structure LzwRegs.Inv (r : LzwRegs) : Prop where
  /-- The width follows the table size. -/
  width : r.codeLength = lzwWidth r.tableSize
  /-- A learned entry has at least two bytes, and at most one more than its predecessors allow. -/
  entries : ∀ i, i < r.learned.length →
    2 ≤ (r.learned.getD i []).length ∧ (r.learned.getD i []).length ≤ i + 2
  /-- The previous code is a data code that the table holds, and `LZW.char` is its value's first byte. -/
  prev : ∀ p, r.prev = some p → p.toNat < r.tableSize ∧ p.toNat ≠ 256 ∧ p.toNat ≠ 257 ∧
    (r.entry p.toNat).head? = some r.char

/-- What holds of the registers of inflate (R298, R300, R305). -/
structure Work.InflateInv (w : Work) : Prop where
  /-- While code lengths are read, some are missing, of at most 286 and 30. -/
  counts : w.phase = .codeLengths →
    w.inf.lens.length < w.inf.nLit + w.inf.nDist ∧ 257 ≤ w.inf.nLit ∧ w.inf.nLit ≤ 286 ∧
      1 ≤ w.inf.nDist ∧ w.inf.nDist ≤ 30
  /-- An open back-reference has a length of 3..258. -/
  copy : w.phase = .distance → 3 ≤ w.inf.copyLen ∧ w.inf.copyLen ≤ 258

/-- What holds of the registers of predictor reversal (R32, R38, R42). -/
structure Work.PredictorInv (w : Work) : Prop where
  /-- In the row loop the rows fit their width and the tag is a valid one. -/
  rows : w.phase = .png →
    1 ≤ w.pred.rowBytes ∧ w.pred.prev.length ≤ w.pred.rowBytes ∧ w.pred.cur.length ≤ w.pred.rowBytes ∧
      w.pred.col ≤ w.pred.rowBytes ∧ w.pred.tag.toNat ≤ 4
  /-- Before it no row has been read. -/
  fresh : w.phase ≠ .png → w.pred.cur = [] ∧ w.pred.col = 0 ∧ w.pred.tag = 0

/-- The five parameter registers hold integers of `PARAM_WIDTH` bits (R32, R36). -/
def PredictorRegs.fits (r : PredictorRegs) : Prop :=
  ∀ v ∈ [r.predictor, r.colors, r.bpc, r.columns, r.earlyChange], fitsWidth Config.paramWidth v = true

/-- Where the cursor of the running `DECODE` stands (R24, R25). -/
def Work.cursorInRange (w : Work) : Prop :=
  match w.phase with
  | .hex | .a85 | .a85End | .rle => w.ip ≤ w.input.length
  | .png => w.ip ≤ w.inf.infl.length
  | .lzw => w.lzw.bp ≤ 8 * w.input.length
  | .idle | .zlibHeader | .blockHeader | .codeLengths | .data | .distance | .trailer | .predictor => True

/-- What holds of the transient registers (R20, R29, R31 to R34). -/
structure Work.Inv (w : Work) : Prop where
  /-- Between commands they do not exist: all at their idle values. -/
  idle : w.phase = .idle → w = .idle
  /-- The cursors. -/
  cursor : w.cursorInRange
  /-- The open Ascii85 group has at most four digits, and its value fits them (R29). -/
  group : w.n ≤ 4 ∧ w.acc + 85 ^ (5 - w.n) ≤ 85 ^ 5
  lzw : w.lzw.Inv
  inflate : w.InflateInv
  predictor : w.PredictorInv
  /-- `PARAMS` and the parameter registers have the width of the parameter port. -/
  params : (∀ q, w.params = some q → q.fits = true) ∧ w.pred.fits

/-! ## What a statement assumes of the environment -/

/-- The next `n` sink writes are decided, and all of them are accepted (R67). Their sizes are any. -/
def State.writesAccepted (s : State) (n : Nat) : Prop :=
  n ≤ s.answers.length ∧ ∀ a ∈ s.answers.take n, a.accepts = true

/-- The state after some of the listed decisions were used for writes that together appended `x` to the sink
`k`. -/
def State.afterWrites (s : State) (used : Nat) (k : SinkId) (x : Bytes) : State :=
  { s with sinks := s.sinks.append k x, answers := s.answers.drop used, draws := s.draws + used }

/-- How many of `n` bytes the accepted writes `ws` carry, in order: each as many as it wants, but at least one,
at most `cap`, and at most what remains (R68, R186 a). -/
def carried (cap : Nat) : List WriteAnswer → Nat → Nat
  | [], _ => 0
  | a :: ws, n =>
    if n = 0 then 0
    else max 1 (min a.size (min cap n)) + carried cap ws (n - max 1 (min a.size (min cap n)))

/-- The result of a decode that faults (R350). -/
def State.decodeFault (s : State) (e : Status) : State := { s with status := e, out := [], work := .idle }

/-- The result of a decode that returns (R62). -/
def State.decodeDone (s : State) (x : Bytes) : State := { s with status := .ok, out := x, work := .idle }

/-- What every sink holds in `t` is what it held in `s`, and `x` more in the sink `k` (R66). -/
def GrewBy (s t : State) (k : SinkId) (x : Bytes) : Prop :=
  ∀ j, t.sinks.read j = if j = k then s.sinks.read j ++ x else s.sinks.read j

/-! ## Sequences of commands -/

/-- The state after instructions run in order; `none` where one of them stops the machine. -/
def runAll : List Instr → State → Option State
  | [], s => some s
  | i :: is, s =>
    match exec i s with
    | .next t => runAll is t
    | .fault _ | .refused _ => none

/-- A session of HEX that encodes the blocks (R118). -/
def hexSession (k : SinkId) (blocks : List Bytes) : List Instr :=
  .hexBeginEncode k :: (blocks.map (fun b => .hexEncodeBlock (some b)) ++ [.hexEndEncode])

/-- A session of A85 that encodes the blocks (R118). -/
def a85Session (k : SinkId) (blocks : List Bytes) : List Instr :=
  .a85BeginEncode k :: (blocks.map (fun b => .a85EncodeBlock (some b)) ++ [.a85EndEncode])

/-- A session of FLATE that encodes the blocks (R118). -/
def flateSession (k : SinkId) (blocks : List Bytes) : List Instr :=
  .flateBeginEncode k :: (blocks.map (fun b => .flateEncodeBlock (some b)) ++ [.flateEndEncode])

/-! ## The stream languages, described apart from the machine -/

/-- The hex digits in order of value (R97). -/
def hexAlphabet : List Byte :=
  [0x30, 0x31, 0x32, 0x33, 0x34, 0x35, 0x36, 0x37, 0x38, 0x39, 0x41, 0x42, 0x43, 0x44, 0x45, 0x46]

/-- The two characters of a byte (R69, R131). -/
def hexPair (b : Byte) : Bytes :=
  [hexAlphabet.getD (b.toNat / 16) 0, hexAlphabet.getD (b.toNat % 16) 0]

/-- The value of a hex digit of either case (R97). -/
def hexValue (c : Byte) : Nat :=
  if c.toNat ≤ 0x39 then c.toNat - 0x30
  else if c.toNat ≤ 0x46 then c.toNat - 0x41 + 10
  else c.toNat - 0x61 + 10

/-- The bytes of a hex stream that are not whitespace (R140). -/
def hexSignificant (bs : Bytes) : Bytes := bs.filter (fun c => !Config.wsHex.contains c)

/-- The bytes of consecutive pairs of digits (R97). -/
def hexBytes : Bytes → Bytes
  | h :: l :: rest => BitVec.ofNat 8 (16 * hexValue h + hexValue l) :: hexBytes rest
  | [_] => []
  | [] => []

/-- The big-endian number of up to four bytes, absent ones 0 (R70, R150). -/
def tupleNumber (q : Bytes) : Nat :=
  (q.getD 0 0).toNat * 2 ^ 24 + (q.getD 1 0).toNat * 2 ^ 16 + (q.getD 2 0).toNat * 2 ^ 8 + (q.getD 3 0).toNat

/-- The five characters of a number, the digit of weight 85^4 first (R150). -/
def base85 (t : Nat) : Bytes :=
  [4, 3, 2, 1, 0].map (fun e => BitVec.ofNat 8 (t / 85 ^ e % 85 + 33))

/-- The text of the complete groups of four bytes (R153, R154). -/
def a85Groups : Bytes → Bytes
  | a :: b :: c :: d :: rest =>
    (if tupleNumber [a, b, c, d] = 0 then [0x7A] else base85 (tupleNumber [a, b, c, d])) ++ a85Groups rest
  | [] | [_] | [_, _] | [_, _, _] => []

/-- The bytes after the last complete group (R153). -/
def a85Rest : Bytes → Bytes
  | _ :: _ :: _ :: _ :: rest => a85Rest rest
  | [] => []
  | [a] => [a]
  | [a, b] => [a, b]
  | [a, b, c] => [a, b, c]

/-- The text of 1 to 3 last bytes, one character more than bytes (R152, R156). -/
def a85Partial (q : Bytes) : Bytes := if q = [] then [] else (base85 (tupleNumber q)).take (q.length + 1)

/-- A85 holds the bytes `q` back (R27, R150). -/
def State.holdsBack (s : State) (q : Bytes) : Prop :=
  q.length ≤ 3 ∧ s.a85Count.toNat = q.length ∧ s.a85Tuple.toNat = tupleNumber q

/-- A record of an RLE stream (R101). -/
inductive RleRecord where
  | literal (bytes : Bytes)
  | run (count : Nat) (byte : Byte)
deriving DecidableEq, Repr

/-- The lengths a record can have (R101). -/
def RleRecord.wf : RleRecord → Bool
  | .literal bytes => 1 ≤ bytes.length && bytes.length ≤ 128
  | .run count _ => 2 ≤ count && count ≤ 128

/-- The bytes of a record (R101). -/
def RleRecord.encoded : RleRecord → Bytes
  | .literal bytes => BitVec.ofNat 8 (bytes.length - 1) :: bytes
  | .run count byte => [BitVec.ofNat 8 (257 - count), byte]

/-- What a record stands for (R101). -/
def RleRecord.expanded : RleRecord → Bytes
  | .literal bytes => bytes
  | .run count byte => List.replicate count byte

/-- The `width` bits of a value, the most significant first (R71). -/
def bitsMsb : Nat → Nat → List Bool
  | 0, _ => []
  | width + 1, value => value.testBit width :: bitsMsb width value

/-- The `width` bits of a value, the least significant first (R292). -/
def bitsLsb (width value : Nat) : List Bool := (bitsMsb width value).reverse

/-- The bytes of a bit sequence, the first bit of each byte its most significant; the last byte is filled
with zeros (R71). -/
def packMsb (bits : List Bool) : Bytes :=
  (List.range ((bits.length + 7) / 8)).map (fun i =>
    BitVec.ofNat 8 ((List.range 8).foldl (fun v j => 2 * v + (bits.getD (8 * i + j) false).toNat) 0))

/-- The bytes of a bit sequence, the first bit of each byte its least significant; the last byte is filled
with zeros (R292). -/
def packLsb (bits : List Bool) : Bytes :=
  (List.range ((bits.length + 7) / 8)).map (fun i =>
    BitVec.ofNat 8 ((List.range 8).foldr (fun j v => 2 * v + (bits.getD (8 * i + j) false).toNat) 0))

/-- The width at which data code number `k`, from 1 after a clear, is read (R271). -/
def dataCodeWidth (k : Nat) : Nat :=
  if k ≤ 254 then 9 else if k ≤ 766 then 10 else if k ≤ 1790 then 11 else 12

/-- The single-byte codes of `bs`, as data codes number `k`, `k + 1`, …, then the end-of-data code. -/
def lzwByteCodes : Nat → Bytes → List Bool
  | k, [] => bitsMsb (dataCodeWidth k) 257
  | k, b :: bs => bitsMsb (dataCodeWidth k) b.toNat ++ lzwByteCodes (k + 1) bs

/-- An LZW stream: a clear, one code for each byte, end of data (R102). -/
def lzwByteStream (bs : Bytes) : Bytes := packMsb (bitsMsb 9 256 ++ lzwByteCodes 1 bs)

/-- The bits of a literal or of end of block in a fixed block, in reading order (R297). -/
def fixedCodeBits (sym : Nat) : List Bool :=
  if sym < 144 then bitsMsb 8 (0x30 + sym)
  else if sym < 256 then bitsMsb 9 (0x190 + (sym - 144))
  else bitsMsb 7 (sym - 256)

/-- The bits of a final block with the fixed codes that holds `bs` as literals (R293, R297). -/
def fixedBlockBits (bs : Bytes) : List Bool :=
  [true, true, false] ++ bs.flatMap (fun b => fixedCodeBits b.toNat) ++ fixedCodeBits 256

/-- `Adler32` as two sums over the whole sequence (R311): the bytes, and the bytes weighted by how many
follow, itself included. -/
def adlerSums : Bytes → Nat × Nat
  | [] => (0, 0)
  | b :: bs => (b.toNat + (adlerSums bs).1, b.toNat * (bs.length + 1) + (adlerSums bs).2)

/-- The checksum from the sums (R311). -/
def adlerOfSums (bs : Bytes) : Nat :=
  (bs.length + (adlerSums bs).2) % 65521 * 65536 + (1 + (adlerSums bs).1) % 65521

/-- A zlib stream of one final block with the fixed codes (R291, R297, R310). -/
def fixedStream (bs : Bytes) : Bytes :=
  [0x78, 0x9C] ++ packLsb (fixedBlockBits bs) ++ unpack32 (adlerOfSums bs)

/-- The extra bits of the length symbol `257 + k` (R305). -/
def lengthExtraOf (k : Nat) : Nat := if k < 8 ∨ k = 28 then 0 else (k - 4) / 4

/-- The base of the length symbol `257 + k` (R305). -/
def lengthBaseOf (k : Nat) : Nat :=
  if k = 28 then 258 else if k < 4 then k + 3 else (4 + k % 4) * 2 ^ ((k - 4) / 4) + 3

/-- The extra bits of the distance symbol `d` (R306). -/
def distExtraOf (d : Nat) : Nat := if d < 2 then 0 else (d - 2) / 2

/-- The base of the distance symbol `d` (R306). -/
def distBaseOf (d : Nat) : Nat := if d < 2 then d + 1 else (2 + d % 2) * 2 ^ ((d - 2) / 2) + 1

/-- How much of the code space of 15 bits a set of code lengths takes (R301). -/
def kraftSum (lens : List Nat) : Nat := ((lens.filter (· ≠ 0)).map (fun l => 2 ^ (15 - l))).sum

/-- A set of code lengths that a data code may have: complete, or incomplete without a code of more than one
bit (R301). -/
def AcceptableLengths (lens : List Nat) : Prop :=
  kraftSum lens = 2 ^ 15 ∨ (kraftSum lens ≤ 2 ^ 15 ∧ ∀ l ∈ lens, l ≤ 1)

/-- The instruction `i`, run in `s`, stands for the code lengths `xs` and reads `used` bits after its own
(R300). -/
def StandsForLengths (i : Instr) (s : State) (xs : List Nat) (used : Nat) : Prop :=
  (∃ l : BitVec 4, i = .deflateCodelenLiteral l ∧ xs = [l.toNat] ∧ used = 0) ∨
  (∃ l x, i = .deflateCodelen16 ∧ s.work.inf.lens.getLast? = some l ∧
    readLsb s.work.input s.work.inf.bitPos 2 = some x ∧ xs = List.replicate (3 + x) l ∧ used = 2) ∨
  (∃ x, i = .deflateCodelen17 ∧ readLsb s.work.input s.work.inf.bitPos 3 = some x ∧
    xs = List.replicate (3 + x) 0 ∧ used = 3) ∨
  (∃ x, i = .deflateCodelen18 ∧ readLsb s.work.input s.work.inf.bitPos 7 = some x ∧
    xs = List.replicate (11 + x) 0 ∧ used = 7)

/-! ## Predictor reversal, described apart from the machine -/

/-- `pred` of R216 for a tag (R217 to R220), on numbers. -/
def predicted (tag left up upleft : Nat) : Nat :=
  match tag with
  | 1 => left
  | 3 => (left + up) / 2
  | 4 =>
    let far := fun x : Nat => ((left : Int) + up - upleft - x).natAbs
    if far left ≤ far up ∧ far left ≤ far upleft then left
    else if far up ≤ far upleft then up else upleft
  | _ => up

/-- `out` is the reconstruction of the rows of `rowBytes` bytes and a tag that `infl` consists of (R216 to
R223): its length, and each byte from its raw byte and its reconstructed neighbours. -/
def PngReversed (rowBytes : Nat) (infl out : Bytes) : Prop :=
  out.length = infl.length / (rowBytes + 1) * rowBytes + (infl.length % (rowBytes + 1) - 1) ∧
  ∀ row i, i < rowBytes → row * (rowBytes + 1) + 1 + i < infl.length →
    (out.getD (row * rowBytes + i) 0).toNat =
      ((infl.getD (row * (rowBytes + 1) + 1 + i) 0).toNat
        + predicted (infl.getD (row * (rowBytes + 1)) 0).toNat
            (if i = 0 then 0 else (out.getD (row * rowBytes + i - 1) 0).toNat)
            (if row = 0 then 0 else (out.getD ((row - 1) * rowBytes + i) 0).toNat)
            (if row = 0 ∨ i = 0 then 0 else (out.getD ((row - 1) * rowBytes + i - 1) 0).toNat)) % 256

/-- Some row of `infl` has a tag above 4 (R221). -/
def HasBadTag (rowBytes : Nat) (infl : Bytes) : Prop :=
  ∃ row, row * (rowBytes + 1) < infl.length ∧ 5 ≤ (infl.getD (row * (rowBytes + 1)) 0).toNat

end Sys2Proof.Machine
end

