-- ==== Sys2Proof/Certificates/Slice0/Obligations.lean ====
section
/-! DEFINITION. The statements about the machine, in the order of OBLIGATIONS.json. The terms they use that are
not the machine's own stand in Sys2Proof/Safety.lean. A statement that rests on a choice of the model names
the log entry (notes/assumptions) in its docstring. -/

section

open Sys2Proof Sys2Proof.Machine

/-! ## Encodings -/

/-- R91 to R106: the words of a well-formed instruction decode to it, every operand at every value. For an LZW
code the decoder state must be one in which the code is of its class (R102). The language in which a symbol
is read is part of its words (`Format`). -/
def Obligations.DecodeEncodeRoundTrip : Prop :=
  ∀ (ctx : SymbolContext) (i : Instr), i.wf = true → i.fits ctx = true →
    decode ctx (encode i).1 (encode i).2 = .ok i

/-- R96 to R106: a symbol's bits have one meaning: the instruction read from them encodes to them again. -/
def Obligations.EncodeDecodeRoundTripForSymbols : Prop :=
  ∀ (ctx : SymbolContext) (f : Format) (v : Nat) (i : Instr),
    decode ctx f (.symbol v) = .ok i → encode i = (f, .symbol v)

/-- R95 to R105: whatever the decoder reads is a well-formed instruction, and an LZW code is of the class its
state gives it. -/
def Obligations.DecodedInstructionsAreWellFormed : Prop :=
  ∀ (ctx : SymbolContext) (f : Format) (e : Encoded) (i : Instr), 258 ≤ ctx.tableSize →
    decode ctx f e = .ok i → i.wf = true ∧ i.fits ctx = true

/-- R91, R92, R94: the twenty command bytes and the operands each command takes. A record whose integers have the
width of the port (R36) arrives as it is; of any other integer the port carries the low bits, so that what
arrives always has that width (the model's reading, log entry 26). -/
def Obligations.TwentyCommandBytes : Prop :=
  (∀ q : Params, q.onPort.fits = true ∧ (q.fits = true → q.onPort = q)) ∧
  ∀ (k : SinkId) (x : Option Bytes) (p y : Option Params), y = p.map (·.onPort) →
    (decodeCommand ⟨0x00, k, x, p⟩ = .hexBeginEncode k ∧ decodeCommand ⟨0x01, k, x, p⟩ = .hexEncodeBlock x ∧
      decodeCommand ⟨0x02, k, x, p⟩ = .hexEndEncode ∧ decodeCommand ⟨0x03, k, x, p⟩ = .hexDecode x y) ∧
    (decodeCommand ⟨0x10, k, x, p⟩ = .a85BeginEncode k ∧ decodeCommand ⟨0x11, k, x, p⟩ = .a85EncodeBlock x ∧
      decodeCommand ⟨0x12, k, x, p⟩ = .a85EndEncode ∧ decodeCommand ⟨0x13, k, x, p⟩ = .a85Decode x y) ∧
    (decodeCommand ⟨0x20, k, x, p⟩ = .flateBeginEncode k ∧
      decodeCommand ⟨0x21, k, x, p⟩ = .flateEncodeBlock x ∧
      decodeCommand ⟨0x22, k, x, p⟩ = .flateEndEncode ∧ decodeCommand ⟨0x23, k, x, p⟩ = .flateDecode x y) ∧
    (decodeCommand ⟨0x30, k, x, p⟩ = .rleBeginEncode k ∧ decodeCommand ⟨0x31, k, x, p⟩ = .rleEncodeBlock x ∧
      decodeCommand ⟨0x32, k, x, p⟩ = .rleEndEncode ∧ decodeCommand ⟨0x33, k, x, p⟩ = .rleDecode x y) ∧
    (decodeCommand ⟨0x40, k, x, p⟩ = .lzwBeginEncode k ∧ decodeCommand ⟨0x41, k, x, p⟩ = .lzwEncodeBlock x ∧
      decodeCommand ⟨0x42, k, x, p⟩ = .lzwEndEncode ∧ decodeCommand ⟨0x43, k, x, p⟩ = .lzwDecode x y)

/-- R95: every other command byte is reserved, there are 236 of them, and a reserved command changes nothing
but the result. -/
def Obligations.ReservedCommandBytes : Prop :=
  (∀ (w : CommandWord) (s : State), 5 ≤ w.cmd.toNat / 16 ∨ w.cmd.toNat / 4 % 4 ≠ 0 →
    decodeCommand w = .reservedCommand w.cmd ∧
    exec (.reservedCommand w.cmd) s = .next { s with status := .invalidArgument, out := [] }) ∧
  ((List.range 256).filter (fun n => decide (5 ≤ n / 16 ∨ n / 4 % 4 ≠ 0))).length = 236

/-- R96, R98, R101, R102, R104, R105, R291, R293, R300, R302: words of one symbol of each stream language,
written out from the encodings. -/
def Obligations.WrittenSymbolWordsDecode : Prop :=
  decode ⟨258, false⟩ .hexChar (.symbol 0x46) = .ok (.hexDigitUpper 6) ∧
  decode ⟨258, false⟩ .a85Char (.symbol 0x75) = .ok (.a85Digit 0x75) ∧
  decode ⟨258, false⟩ .rleCtl (.symbol 0x81) = .ok (.rleReplicate 1) ∧
  decode ⟨258, true⟩ .lzwCode (.symbol 0x102) = .ok (.lzwNotYetDefined 0x102) ∧
  decode ⟨258, false⟩ .lzwCode (.symbol 0x102) = .ok (.lzwIllegal 0x102) ∧
  decode ⟨258, false⟩ .predictor (.symbol 0xFFFFFFFF) = .ok (.predictorUndefined (-1)) ∧
  decode ⟨258, false⟩ .pngRow (.symbol 3) = .ok .pngTagAverage ∧
  decode ⟨258, false⟩ .zlibHdr (.symbol 0x9C78) = .ok (.zlibHeader 0x78 0x9C) ∧
  decode ⟨258, false⟩ .deflateBlk (.symbol 0b011) = .ok (.deflateBlockFixed true) ∧
  decode ⟨258, false⟩ .deflateCl (.symbol 18) = .ok .deflateCodelen18 ∧
  decode ⟨258, false⟩ .deflateLitLen (.symbol 285) = .ok (.deflateSymLength 285) ∧
  decode ⟨258, false⟩ .deflateDist (.symbol 30) = .ok (.deflateSymIllegal 30) ∧
  decode ⟨258, false⟩ .zlibTrl (.symbol 0x62006200) = .ok (.zlibTrailer 0x00620062)

/-! ## The step -/

/-- R79, R90, R391: while no command runs, a step takes the command at the head of the port, and is `exec` of
the instruction its words stand for. -/
def Obligations.StepRunsTheIssuedCommand : Prop :=
  ∀ (s : State) (w : CommandWord) (rest : List HostEvent), s.work.phase = .idle →
    s.port = .command w :: rest →
    step s = exec (decodeCommand w) { s with port := rest } ∧
    ∀ i : Instr, i.wf = true → encode i = (.cmd, .command w) →
      step s = exec i { s with port := rest }

/-- In a decode in progress, a step is `exec` of the symbol at the cursor, the cursor moved past the symbol's own
bits; a stop condition ends the command with its output; where no symbol can be read, the command faults. A
decode interprets its input symbol by symbol (R5, R117); that one step executes one symbol is the model's
choice (log entry 4), and that the cursor stands past the symbol's own bits alone is its reading of the rules
(log entry 13). -/
def Obligations.StepRunsTheFetchedSymbol : Prop :=
  ∀ s : State, s.work.phase ≠ .idle →
    (∀ i w, fetch s.work = .symbol i w → step s = exec i { s with work := w }) ∧
    (fetch s.work = .stop → step s = .next (s.decodeDone s.work.out)) ∧
    (∀ e, fetch s.work = .bad e → step s = .next (s.decodeFault e)) ∧
    (∀ c, s.work.phase = .hex → s.work.input[s.work.ip]? = some c →
      step s = exec (decodeHexChar c) { s with work := { s.work with ip := s.work.ip + 1 } }) ∧
    (∀ c, s.work.phase = .a85 → s.work.input[s.work.ip]? = some c →
      step s = exec (decodeA85Char c) { s with work := { s.work with ip := s.work.ip + 1 } }) ∧
    (∀ c, s.work.phase = .rle → s.work.input[s.work.ip]? = some c →
      step s = exec (decodeRleControl c) { s with work := { s.work with ip := s.work.ip + 1 } }) ∧
    (∀ c, s.work.phase = .png → s.work.inf.infl[s.work.ip]? = some c →
      step s = exec (decodePngTag c) { s with work := { s.work with ip := s.work.ip + 1 } })

/-- R364: between commands the block is idle and holds its state. That time passes in steps of nothing is the
model's choice (log entry 2). -/
def Obligations.IdleBlockKeepsItsState : Prop :=
  ∀ (n : Nat) (s : State), s.work.phase = .idle → s.port = [] →
    Host.Core.run Sys2Proof.core n s = .next s

/-- R380: `RESET`, applied while no command runs, puts every persistent register at its reset value. The
transient registers are at their idle values (log entry 7) and `OUT` is empty (log entry 8); the sinks stay
(R381). -/
def Obligations.ResetEventEffect : Prop :=
  ∀ (s : State) (rest : List HostEvent), s.work.phase = .idle → s.port = .reset :: rest →
    step s = .next
      { hex := ⟨false, 0⟩, a85 := ⟨false, 0⟩, flate := ⟨false, 0⟩, a85Tuple := 0, a85Count := 0,
        flateZ := Config.encoder.zInit, status := .ok, out := [], work := .idle,
        sinks := s.sinks, port := rest, answers := s.answers, draws := s.draws }

/-- R46, R380: the persistent registers after `RESET`, applied while no command runs, and in the state the
machine starts in. The sinks are not reset, and the block waits for a command. -/
def Obligations.ResetRegisterValues : Prop :=
  (∀ (s : State) (rest : List HostEvent), s.work.phase = .idle → s.port = .reset :: rest →
    ∃ t, step s = .next t ∧ (∀ u : UnitId, t.session u = ⟨false, 0⟩) ∧ t.a85Tuple = 0 ∧ t.a85Count = 0 ∧
      t.flateZ = Config.encoder.zInit ∧ t.status = .ok ∧ t.sinks = s.sinks ∧ t.work.phase = .idle) ∧
  (∀ u : UnitId, State.reset.session u = ⟨false, 0⟩) ∧ State.reset.a85Tuple = 0 ∧
    State.reset.a85Count = 0 ∧ State.reset.flateZ = Config.encoder.zInit ∧ State.reset.status = .ok ∧
    State.reset.work.phase = .idle

/-- R47, R66: the invariants hold at reset. -/
def Obligations.InvariantsHoldAtReset : Prop := State.reset.SessionInv ∧ State.reset.work.Inv

/-- R47 (I-a, I-b, I-c), R62, R66: every step keeps the invariants of the persistent state and the sinks. -/
def Obligations.StepKeepsSessionInvariants : Prop :=
  ∀ s t : State, s.SessionInv → step s = .next t → t.SessionInv

/-- R29, R32, R34, R36, R40, R42, R269 to R271, R298, R300, R305: every step keeps the invariants of the transient
registers. -/
def Obligations.StepKeepsTransientInvariants : Prop :=
  ∀ s t : State, s.work.Inv → step s = .next t → t.work.Inv

/-- R340, R400: from every state, every run of any length goes on: no instruction stops the machine, and every
loop of every command ends. -/
def Obligations.EveryRunIsSafe : Prop := ∀ s : State, s.safe

/-- R5, R76, R117: a `DECODE` run whole does what its symbols, run one step at a time, do. That the symbols can
be run one at a time is the model's choice (log entry 4). -/
def Obligations.SymbolStepsMakeTheDecode : Prop :=
  ∀ (s : State) (bs : Bytes) (p : Option Params),
    (∃ k, Host.Core.run Sys2Proof.core k { s with work := hexStart bs p } = exec (.hexDecode (some bs) p) s) ∧
    (∃ k, Host.Core.run Sys2Proof.core k { s with work := a85Start bs p } = exec (.a85Decode (some bs) p) s) ∧
    (∃ k, Host.Core.run Sys2Proof.core k { s with work := flateStart bs p } =
      exec (.flateDecode (some bs) p) s) ∧
    (∃ k, Host.Core.run Sys2Proof.core k { s with work := rleStart bs p } = exec (.rleDecode (some bs) p) s) ∧
    (∃ k, Host.Core.run Sys2Proof.core k { s with work := lzwStart bs p } = exec (.lzwDecode (some bs) p) s)

/-- R66, R79: a step only appends to sinks, and only to a sink that an open session is bound to. -/
def Obligations.SinksOnlyGrowWhereBound : Prop :=
  ∀ s t : State, s.sinks.wf = true → step s = .next t →
    ∀ k, ∃ x, t.sinks.read k = s.sinks.read k ++ x ∧
      (x ≠ [] → ∃ u, s.active u = true ∧ s.sink u = k)

/-- R77, R350: a `DECODE` has one result, whatever the state it is issued in, and leaves everything else of the
state alone, whether it returns or faults. -/
def Obligations.DecodeIsAPureFunction : Prop :=
  ∀ (u : UnitId) (w : CommandWord), ∃ (e : Status) (x : Bytes), (e ≠ .ok → x = []) ∧
    ∀ s : State, exec (commandInstr u .decode w) s =
      .next { s with status := e, out := x, work := .idle }

/-! ## The encode commands -/

/-- R130, R151, R182: `BEGIN_ENCODE` of the streaming units, in the order of its checks. -/
def Obligations.BeginEncodeOutcome : Prop :=
  ∀ (k : SinkId) (s : State),
    exec (.hexBeginEncode k) s = .next
      (if s.hex.active then { s with status := .invalidState, out := [] }
      else if k = 0 then { s with status := .invalidHandle, out := [] }
      else { s with hex := ⟨true, k⟩, status := .ok, out := [] }) ∧
    exec (.a85BeginEncode k) s = .next
      (if s.a85.active then { s with status := .invalidState, out := [] }
      else if k = 0 then { s with status := .invalidHandle, out := [] }
      else { s with a85 := ⟨true, k⟩, a85Tuple := 0, a85Count := 0, status := .ok, out := [] }) ∧
    exec (.flateBeginEncode k) s = .next
      (if s.flate.active then { s with status := .invalidState, out := [] }
      else if k = 0 then { s with status := .invalidHandle, out := [] }
      else { s with flate := ⟨true, k⟩, flateZ := Config.encoder.zInit, status := .ok, out := [] })

/-- R131, R69, R97: with its writes accepted, `HEX.ENCODE_BLOCK` appends two characters for each byte to its
sink and changes nothing else but the ports. -/
def Obligations.HexEncodeBlockEmitsDigits : Prop :=
  ∀ (bs : Bytes) (s : State), s.hex.active = true → s.writesAccepted (2 * bs.length) →
    ∃ used t, exec (.hexEncodeBlock (some bs)) s = .next t ∧
      t = { s.afterWrites used s.hex.sink (bs.flatMap hexPair) with status := .ok, out := [] } ∧
      (s.sinks.wf = true → GrewBy s t s.hex.sink (bs.flatMap hexPair))

/-- R150, R153, R154: with its writes accepted, `A85.ENCODE_BLOCK` appends the text of the groups that the bytes
held back and the input complete, and holds the rest back. -/
def Obligations.A85EncodeBlockEmitsGroups : Prop :=
  ∀ (q bs : Bytes) (s : State), s.a85.active = true → s.holdsBack q →
    s.writesAccepted (a85Groups (q ++ bs)).length →
    ∃ used tuple count t, exec (.a85EncodeBlock (some bs)) s = .next t ∧
      t = { s.afterWrites used s.a85.sink (a85Groups (q ++ bs)) with
        a85Tuple := tuple, a85Count := count, status := .ok, out := [] } ∧
      t.holdsBack (a85Rest (q ++ bs)) ∧
      (s.sinks.wf = true → GrewBy s t s.a85.sink (a85Groups (q ++ bs)))

/-- R185: with its writes accepted, `FLATE.ENCODE_BLOCK` appends what the compressor gives for the input and
keeps the compressor's new context. -/
def Obligations.FlateEncodeBlockFeedsCompressor : Prop :=
  ∀ (bs : Bytes) (s : State), s.flate.active = true →
    s.writesAccepted (Config.encoder.zFeed s.flateZ bs).2.length →
    ∃ used t, exec (.flateEncodeBlock (some bs)) s = .next t ∧
      t = { s.afterWrites used s.flate.sink (Config.encoder.zFeed s.flateZ bs).2 with
        flateZ := (Config.encoder.zFeed s.flateZ bs).1, status := .ok, out := [] } ∧
      (s.sinks.wf = true → GrewBy s t s.flate.sink (Config.encoder.zFeed s.flateZ bs).2)

/-- R133, R156, R187: with its writes accepted, `END_ENCODE` appends the tail of the stream, closes the session
and puts the unit's buffered data at its reset value. HEX has no tail and writes nothing. -/
def Obligations.EndEncodeFlushesAndCloses : Prop :=
  ∀ s : State,
    (s.hex.active = true →
      exec .hexEndEncode s = .next { s with hex := ⟨false, 0⟩, status := .ok, out := [] }) ∧
    (∀ q, s.a85.active = true → s.holdsBack q → s.writesAccepted (a85Partial q).length →
      ∃ used t, exec .a85EndEncode s = .next t ∧
        t = { s.afterWrites used s.a85.sink (a85Partial q) with
          a85 := ⟨false, 0⟩, a85Tuple := 0, a85Count := 0, status := .ok, out := [] } ∧
        (s.sinks.wf = true → GrewBy s t s.a85.sink (a85Partial q))) ∧
    (s.flate.active = true → s.writesAccepted (Config.encoder.zFinish s.flateZ).length →
      ∃ used t, exec .flateEndEncode s = .next t ∧
        t = { s.afterWrites used s.flate.sink (Config.encoder.zFinish s.flateZ) with
          flate := ⟨false, 0⟩, flateZ := Config.encoder.zInit, status := .ok, out := [] } ∧
        (s.sinks.wf = true → GrewBy s t s.flate.sink (Config.encoder.zFinish s.flateZ)))

/-- R68, R352, R354: whatever the environment answers and however the writes are split, an encode command that
emits has appended all of its emission and returned `OK`, or a proper prefix of it and faulted with
`SinkFailure`, its session closed and its buffered data gone. -/
def Obligations.EncodeEmitsAllOrFails : Prop :=
  ∀ s : State,
    (∀ bs, s.hex.active = true → ∃ used sent, sent <+: bs.flatMap hexPair ∧
      (sent = bs.flatMap hexPair ∧ exec (.hexEncodeBlock (some bs)) s =
          .next { s.afterWrites used s.hex.sink sent with status := .ok, out := [] } ∨
        sent ≠ bs.flatMap hexPair ∧ exec (.hexEncodeBlock (some bs)) s =
          .next { s.afterWrites used s.hex.sink sent with
            hex := ⟨false, 0⟩, status := .sinkFailure, out := [] })) ∧
    (∀ bs q, s.a85.active = true → s.holdsBack q → ∃ used sent, sent <+: a85Groups (q ++ bs) ∧
      (sent = a85Groups (q ++ bs) ∧ (∃ tuple count t, exec (.a85EncodeBlock (some bs)) s = .next t ∧
          t = { s.afterWrites used s.a85.sink sent with
            a85Tuple := tuple, a85Count := count, status := .ok, out := [] } ∧
          t.holdsBack (a85Rest (q ++ bs))) ∨
        sent ≠ a85Groups (q ++ bs) ∧ exec (.a85EncodeBlock (some bs)) s =
          .next { s.afterWrites used s.a85.sink sent with
            a85 := ⟨false, 0⟩, a85Tuple := 0, a85Count := 0, status := .sinkFailure, out := [] })) ∧
    (∀ q, s.a85.active = true → s.holdsBack q → ∃ used sent, sent <+: a85Partial q ∧
      exec .a85EndEncode s =
        .next { s.afterWrites used s.a85.sink sent with
          a85 := ⟨false, 0⟩, a85Tuple := 0, a85Count := 0,
          status := if sent = a85Partial q then .ok else .sinkFailure, out := [] }) ∧
    (∀ bs, s.flate.active = true → ∃ used sent, sent <+: (Config.encoder.zFeed s.flateZ bs).2 ∧
      (sent = (Config.encoder.zFeed s.flateZ bs).2 ∧ exec (.flateEncodeBlock (some bs)) s =
          .next { s.afterWrites used s.flate.sink sent with
            flateZ := (Config.encoder.zFeed s.flateZ bs).1, status := .ok, out := [] } ∨
        sent ≠ (Config.encoder.zFeed s.flateZ bs).2 ∧ exec (.flateEncodeBlock (some bs)) s =
          .next { s.afterWrites used s.flate.sink sent with
            flate := ⟨false, 0⟩, flateZ := Config.encoder.zInit, status := .sinkFailure, out := [] })) ∧
    (s.flate.active = true → ∃ used sent, sent <+: Config.encoder.zFinish s.flateZ ∧
      exec .flateEndEncode s =
        .next { s.afterWrites used s.flate.sink sent with
          flate := ⟨false, 0⟩, flateZ := Config.encoder.zInit,
          status := if sent = Config.encoder.zFinish s.flateZ then .ok else .sinkFailure, out := [] })

/-- R67, R68, R354: where the environment accepts the writes `ws` and refuses the next one, an emission that `ws`
does not carry whole ends its command with `SinkFailure`, the session closed, the buffered data at its reset
value, and what `ws` carried appended: nothing where the first write is refused. It holds of all five commands
that emit. How much a compressor gives `FLATE.ENCODE_BLOCK` to emit is open (R184, log entry 10), so its clause
says what happens in both cases. -/
def Obligations.RefusedWriteFaults : Prop :=
  ∀ (s : State) (ws rest : List WriteAnswer) (n : Nat), s.answers = ws ++ ⟨n, false⟩ :: rest →
    (∀ a ∈ ws, a.accepts = true) →
    (∀ bs x m, s.hex.active = true → x = bs.flatMap hexPair → m = carried x.length ws x.length →
      m < x.length → exec (.hexEncodeBlock (some bs)) s =
        .next { s.afterWrites (ws.length + 1) s.hex.sink (x.take m) with
          hex := ⟨false, 0⟩, status := .sinkFailure, out := [] }) ∧
    (∀ bs q x m, s.a85.active = true → s.holdsBack q → x = a85Groups (q ++ bs) →
      m = carried x.length ws x.length → m < x.length → exec (.a85EncodeBlock (some bs)) s =
        .next { s.afterWrites (ws.length + 1) s.a85.sink (x.take m) with
          a85 := ⟨false, 0⟩, a85Tuple := 0, a85Count := 0, status := .sinkFailure, out := [] }) ∧
    (∀ q x m, s.a85.active = true → s.holdsBack q → x = a85Partial q →
      m = carried x.length ws x.length → m < x.length → exec .a85EndEncode s =
        .next { s.afterWrites (ws.length + 1) s.a85.sink (x.take m) with
          a85 := ⟨false, 0⟩, a85Tuple := 0, a85Count := 0, status := .sinkFailure, out := [] }) ∧
    (∀ bs x m, s.flate.active = true → x = (Config.encoder.zFeed s.flateZ bs).2 →
      m = carried Config.flateBuf ws x.length →
      (m < x.length → exec (.flateEncodeBlock (some bs)) s =
        .next { s.afterWrites (ws.length + 1) s.flate.sink (x.take m) with
          flate := ⟨false, 0⟩, flateZ := Config.encoder.zInit, status := .sinkFailure, out := [] }) ∧
      (¬ m < x.length → ∃ used, used ≤ ws.length ∧ exec (.flateEncodeBlock (some bs)) s =
        .next { s.afterWrites used s.flate.sink x with
          flateZ := (Config.encoder.zFeed s.flateZ bs).1, status := .ok, out := [] })) ∧
    (∀ x m, s.flate.active = true → x = Config.encoder.zFinish s.flateZ →
      m = carried Config.flateBuf ws x.length → m < x.length → exec .flateEndEncode s =
        .next { s.afterWrites (ws.length + 1) s.flate.sink (x.take m) with
          flate := ⟨false, 0⟩, flateZ := Config.encoder.zInit, status := .sinkFailure, out := [] })

/-- R343, R351: an encode command that its session does not allow faults with `InvalidState` and changes
nothing else; the open session, its sink and its buffered data stay. -/
def Obligations.OutOfSessionCommandsFault : Prop :=
  ∀ (s : State) (k : SinkId) (x : Option Bytes),
    (s.hex.active = true → exec (.hexBeginEncode k) s = .next { s with status := .invalidState, out := [] }) ∧
    (s.a85.active = true → exec (.a85BeginEncode k) s = .next { s with status := .invalidState, out := [] }) ∧
    (s.flate.active = true →
      exec (.flateBeginEncode k) s = .next { s with status := .invalidState, out := [] }) ∧
    (s.hex.active = false →
      exec (.hexEncodeBlock x) s = .next { s with status := .invalidState, out := [] } ∧
      exec .hexEndEncode s = .next { s with status := .invalidState, out := [] }) ∧
    (s.a85.active = false →
      exec (.a85EncodeBlock x) s = .next { s with status := .invalidState, out := [] } ∧
      exec .a85EndEncode s = .next { s with status := .invalidState, out := [] }) ∧
    (s.flate.active = false →
      exec (.flateEncodeBlock x) s = .next { s with status := .invalidState, out := [] } ∧
      exec .flateEndEncode s = .next { s with status := .invalidState, out := [] })

/-- R344, R350 to R352: an absent `IN` faults with `InvalidHandle`: `DECODE` of all five units as the first
check; `ENCODE_BLOCK` of an active unit, whose session it closes. -/
def Obligations.AbsentInputFaults : Prop :=
  ∀ (s : State) (p : Option Params),
    exec (.hexDecode none p) s = .next (s.decodeFault .invalidHandle) ∧
    exec (.a85Decode none p) s = .next (s.decodeFault .invalidHandle) ∧
    exec (.flateDecode none p) s = .next (s.decodeFault .invalidHandle) ∧
    exec (.rleDecode none p) s = .next (s.decodeFault .invalidHandle) ∧
    exec (.lzwDecode none p) s = .next (s.decodeFault .invalidHandle) ∧
    (s.hex.active = true → exec (.hexEncodeBlock none) s =
      .next { s with hex := ⟨false, 0⟩, status := .invalidHandle, out := [] }) ∧
    (s.a85.active = true → exec (.a85EncodeBlock none) s =
      .next { s with a85 := ⟨false, 0⟩, a85Tuple := 0, a85Count := 0, status := .invalidHandle, out := [] }) ∧
    (s.flate.active = true → exec (.flateEncodeBlock none) s =
      .next { s with flate := ⟨false, 0⟩, flateZ := Config.encoder.zInit, status := .invalidHandle,
                     out := [] })

/-- R241, R261: the encode commands of RLE and LZW fail with `UnsupportedOperation`, whatever the operands and
the state, and change nothing else. -/
def Obligations.RleAndLzwEncodeUnsupported : Prop :=
  ∀ (s : State) (k : SinkId) (x : Option Bytes),
    exec (.rleBeginEncode k) s = .next { s with status := .unsupportedOperation, out := [] } ∧
    exec (.rleEncodeBlock x) s = .next { s with status := .unsupportedOperation, out := [] } ∧
    exec .rleEndEncode s = .next { s with status := .unsupportedOperation, out := [] } ∧
    exec (.lzwBeginEncode k) s = .next { s with status := .unsupportedOperation, out := [] } ∧
    exec (.lzwEncodeBlock x) s = .next { s with status := .unsupportedOperation, out := [] } ∧
    exec .lzwEndEncode s = .next { s with status := .unsupportedOperation, out := [] }

/-- R132, R155, which the spec marks as derived: with their writes accepted, two `ENCODE_BLOCK` of HEX or of
A85 append the same bytes as one of both inputs, and leave the same tuple and count. -/
def Obligations.SplitInvariance : Prop :=
  ∀ (s : State) (a b : Bytes),
    (s.hex.active = true → s.writesAccepted (2 * (a ++ b).length) →
      ∃ t u, runAll [.hexEncodeBlock (some a), .hexEncodeBlock (some b)] s = some t ∧
        runAll [.hexEncodeBlock (some (a ++ b))] s = some u ∧
        t.sinks = u.sinks ∧ t.status = .ok ∧ u.status = .ok) ∧
    (s.a85.active = true → s.writesAccepted (5 * (a ++ b).length) →
      ∃ t u, runAll [.a85EncodeBlock (some a), .a85EncodeBlock (some b)] s = some t ∧
        runAll [.a85EncodeBlock (some (a ++ b))] s = some u ∧
        t.sinks = u.sinks ∧ t.a85Tuple = u.a85Tuple ∧ t.a85Count = u.a85Count ∧
        t.status = .ok ∧ u.status = .ok)

/-- R157: the length of what an A85 session writes, and that it holds digits and 'z' only: no terminator, no
whitespace. -/
def Obligations.A85SessionLength : Prop :=
  ∀ (s : State) (k : SinkId) (blocks : List Bytes), s.a85.active = false → k ≠ 0 → s.sinks.wf = true →
    s.writesAccepted (5 * (blocks.flatten.length / 4) + 5) →
    ∃ t text, runAll (a85Session k blocks) s = some t ∧ t.sinks.read k = s.sinks.read k ++ text ∧
      text.length + 4 * ((List.range (blocks.flatten.length / 4)).filter
          (fun g => tupleNumber (blocks.flatten.drop (4 * g)) = 0)).length =
        5 * (blocks.flatten.length / 4)
          + (if blocks.flatten.length % 4 = 0 then 0 else blocks.flatten.length % 4 + 1) ∧
      ∀ c ∈ text, (0x21 ≤ c.toNat ∧ c.toNat ≤ 0x75) ∨ c = 0x7A

/-- R141: what a HEX session writes, whatever its blocks, decodes to the bytes given to it. -/
def Obligations.HexRoundTrip : Prop :=
  ∀ (s : State) (k : SinkId) (blocks : List Bytes) (p : Option Params), s.hex.active = false → k ≠ 0 →
    s.sinks.wf = true → s.sinks.read k = [] → s.writesAccepted (2 * blocks.flatten.length) →
    ∃ t, runAll (hexSession k blocks) s = some t ∧ t.status = .ok ∧ t.hex = ⟨false, 0⟩ ∧
      exec (.hexDecode (some (t.sinks.read k)) p) t = .next (t.decodeDone blocks.flatten)

/-- R171, whose clause about a terminator and any bytes appended the spec marks as derived: what an A85 session
writes decodes to the bytes given to it, also when a terminator and any bytes are appended. -/
def Obligations.A85RoundTrip : Prop :=
  ∀ (s : State) (k : SinkId) (blocks : List Bytes) (junk : Bytes) (p : Option Params),
    s.a85.active = false → k ≠ 0 → s.sinks.wf = true → s.sinks.read k = [] →
    s.writesAccepted (5 * (blocks.flatten.length / 4) + 5) →
    ∃ t, runAll (a85Session k blocks) s = some t ∧ t.status = .ok ∧ t.a85 = ⟨false, 0⟩ ∧
      exec (.a85Decode (some (t.sinks.read k)) p) t = .next (t.decodeDone blocks.flatten) ∧
      exec (.a85Decode (some (t.sinks.read k ++ 0x7E :: 0x3E :: junk)) p) t =
        .next (t.decodeDone blocks.flatten)

/-- R194, which the spec marks as derived from R184, R189 and R193: what a FLATE session writes decodes to the
bytes given to it, without `PARAMS` or with a record whose Predictor is 1, for every compressor that satisfies
FlateContract (R184; the compressor is a free value, log entry 10). -/
def Obligations.FlateRoundTrip : Prop :=
  ∀ (s : State) (k : SinkId) (blocks : List Bytes) (p : Option Params), s.flate.active = false → k ≠ 0 →
    s.sinks.wf = true → s.sinks.read k = [] →
    s.writesAccepted ((feedAll Config.encoder.zFeed Config.encoder.zInit blocks).2
      ++ Config.encoder.zFinish (feedAll Config.encoder.zFeed Config.encoder.zInit blocks).1).length →
    (∀ q, p = some q → (q.predictor.getD 1) = 1) →
    ∃ t, runAll (flateSession k blocks) s = some t ∧ t.status = .ok ∧ t.flate = ⟨false, 0⟩ ∧
      exec (.flateDecode (some (t.sinks.read k)) p) t = .next (t.decodeDone blocks.flatten)

/-- I-d of R47: while a FLATE session is open, what it has appended and `zFinish` of its context inflate to the
inputs so far. -/
def Obligations.FlateSessionHoldsItsInput : Prop :=
  ∀ (s : State) (k : SinkId) (blocks : List Bytes), s.flate.active = false → k ≠ 0 → s.sinks.wf = true →
    s.writesAccepted (feedAll Config.encoder.zFeed Config.encoder.zInit blocks).2.length →
    ∃ t x, runAll (.flateBeginEncode k :: blocks.map (fun b => .flateEncodeBlock (some b))) s = some t ∧
      t.flate = ⟨true, k⟩ ∧ t.sinks.read k = s.sinks.read k ++ x ∧
      inflate (x ++ Config.encoder.zFinish t.flateZ) = some blocks.flatten

/-! ## HEX -/

/-- R136 to R139, R69: what each symbol of a hex stream does. -/
def Obligations.HexSymbolEffects : Prop :=
  ∀ s : State,
    (∀ c, Config.wsHex.contains c = true → exec (.hexWhitespace c) s = .next s) ∧
    (∀ (i : Instr) (n : BitVec 4),
      ((∃ v : BitVec 4, v.toNat ≤ 9 ∧ i = .hexDigit09 v ∧ n.toNat = v.toNat) ∨
        (∃ v : BitVec 3, 1 ≤ v.toNat ∧ v.toNat ≤ 6 ∧ i = .hexDigitUpper v ∧ n.toNat = v.toNat + 9) ∨
        (∃ v : BitVec 3, 1 ≤ v.toNat ∧ v.toNat ≤ 6 ∧ i = .hexDigitLower v ∧ n.toNat = v.toNat + 9)) →
      (s.work.hi = none → exec i s = .next { s with work := { s.work with hi := some n } }) ∧
      (∀ h, s.work.hi = some h → exec i s = .next { s with work := { s.work with
        hi := none, out := s.work.out ++ [BitVec.ofNat 8 (16 * h.toNat + n.toNat)] } })) ∧
    (∀ c, exec (.hexIllegal c) s = .next (s.decodeFault .valueOutOfRange)) ∧
    (s.work.hi = none → exec .hexEndOfInput s = .next (s.decodeDone s.work.out)) ∧
    (s.work.hi ≠ none → exec .hexEndOfInput s = .next (s.decodeFault .valueOutOfRange))

/-- R134, R136 to R140: `HEX.DECODE` as a whole. Whitespace is dropped wherever it stands; the rest must be an
even number of hex digits, and each pair is one byte. -/
def Obligations.HexDecodeResult : Prop :=
  ∀ (bs : Bytes) (p : Option Params) (s : State),
    exec (.hexDecode (some bs) p) s = .next
      (if (hexSignificant bs).all isHexDigit = true ∧ (hexSignificant bs).length % 2 = 0 then
        s.decodeDone (hexBytes (hexSignificant bs))
      else s.decodeFault .valueOutOfRange)

/-! ## A85 -/

/-- R162 to R164, R166 to R168: what each symbol of an Ascii85 stream does. -/
def Obligations.A85SymbolEffects : Prop :=
  ∀ s : State, s.work.n ≤ 4 →
    (∀ c, Config.wsA85 c = true → exec (.a85Skip c) s = .next s) ∧
    (∀ (c : Byte) (acc : Nat), isA85Digit c = true →
      acc = s.work.acc + (c.toNat - 33) * 85 ^ (4 - s.work.n) →
      (s.work.n < 4 → exec (.a85Digit c) s =
        .next { s with work := { s.work with acc := acc, n := s.work.n + 1 } }) ∧
      (s.work.n = 4 → acc < 2 ^ 32 → exec (.a85Digit c) s =
        .next { s with work := { s.work with
          acc := 0, n := 0,
          out := s.work.out ++ [BitVec.ofNat 8 (acc / 2 ^ 24), BitVec.ofNat 8 (acc / 2 ^ 16),
            BitVec.ofNat 8 (acc / 2 ^ 8), BitVec.ofNat 8 acc] } }) ∧
      (s.work.n = 4 → 2 ^ 32 ≤ acc → exec (.a85Digit c) s = .next (s.decodeFault .valueOutOfRange))) ∧
    (s.work.n = 0 → exec .a85Z s =
      .next { s with work := { s.work with out := s.work.out ++ [0, 0, 0, 0] } }) ∧
    (s.work.n ≠ 0 → exec .a85Z s = .next (s.decodeFault .valueOutOfRange)) ∧
    (s.work.input[s.work.ip]? = some 0x3E → exec .a85Terminator s =
      .next { s with work := { s.work with phase := .a85End, ip := s.work.ip + 1 } }) ∧
    (s.work.input[s.work.ip]? ≠ some 0x3E →
      exec .a85Terminator s = .next (s.decodeFault .valueOutOfRange)) ∧
    (∀ c, exec (.a85Illegal c) s = .next (s.decodeFault .valueOutOfRange)) ∧
    (s.work.n < 2 → exec .a85EndOfData s = .next (s.decodeDone s.work.out)) ∧
    (∀ v, 2 ≤ s.work.n → v = s.work.acc + 85 ^ (5 - s.work.n) →
      (v < 2 ^ 32 → exec .a85EndOfData s = .next (s.decodeDone (s.work.out ++
        [BitVec.ofNat 8 (v / 2 ^ 24), BitVec.ofNat 8 (v / 2 ^ 16), BitVec.ofNat 8 (v / 2 ^ 8),
          BitVec.ofNat 8 v].take (s.work.n - 1)))) ∧
      (2 ^ 32 ≤ v → exec .a85EndOfData s = .next (s.decodeFault .valueOutOfRange)))

/-- R162: a byte of the skip class may stand anywhere but directly after '~' and changes no result. -/
def Obligations.A85SkipsAnywhere : Prop :=
  ∀ (a b : Bytes) (c : Byte) (p : Option Params) (s : State), Config.wsA85 c = true →
    a.getLast? ≠ some 0x7E →
    exec (.a85Decode (some (a ++ c :: b)) p) s = exec (.a85Decode (some (a ++ b)) p) s

/-! ## RLE -/

/-- R244 to R247: what each control byte of an RLE stream does. -/
def Obligations.RleControlByteEffects : Prop :=
  ∀ s : State,
    (∀ n : BitVec 7,
      (s.work.ip + (n.toNat + 1) ≤ s.work.input.length → exec (.rleLiteral n) s =
        .next { s with work := { s.work with
          ip := s.work.ip + (n.toNat + 1),
          out := s.work.out ++ (s.work.input.drop s.work.ip).take (n.toNat + 1) } }) ∧
      (s.work.input.length < s.work.ip + (n.toNat + 1) →
        exec (.rleLiteral n) s = .next (s.decodeFault .valueOutOfRange))) ∧
    exec .rleEod s = .next (s.decodeDone s.work.out) ∧
    (∀ n : BitVec 7, n ≠ 0 →
      (∀ b, s.work.input[s.work.ip]? = some b → exec (.rleReplicate n) s =
        .next { s with work := { s.work with
          ip := s.work.ip + 1, out := s.work.out ++ List.replicate (129 - n.toNat) b } }) ∧
      (s.work.input[s.work.ip]? = none →
        exec (.rleReplicate n) s = .next (s.decodeFault .valueOutOfRange)))

/-- R242 to R246: an RLE stream of whole records decodes to what the records stand for; it ends with the input
or with the end marker, and nothing after the marker matters. -/
def Obligations.RleDecodeOfRecords : Prop :=
  ∀ (records : List RleRecord) (rest junk : Bytes) (p : Option Params) (s : State),
    records.all RleRecord.wf = true → (rest = [] ∨ rest = 0x80 :: junk) →
    exec (.rleDecode (some (records.flatMap RleRecord.encoded ++ rest)) p) s =
      .next (s.decodeDone (records.flatMap RleRecord.expanded))

/-- R247: an RLE stream cut inside a record faults with `ValueOutOfRange`, whatever came before. -/
def Obligations.RleCutRecordFaults : Prop :=
  ∀ (records : List RleRecord) (r : RleRecord) (n : Nat) (p : Option Params) (s : State),
    records.all RleRecord.wf = true → r.wf = true → 1 ≤ n → n < r.encoded.length →
    exec (.rleDecode (some (records.flatMap RleRecord.encoded ++ r.encoded.take n)) p) s =
      .next (s.decodeFault .valueOutOfRange)

/-- R248, which the spec marks as derived: the expansion bound of `RLE.DECODE`. -/
def Obligations.RleExpansionBound : Prop :=
  ∀ (bs : Bytes) (p : Option Params) (s t : State), exec (.rleDecode (some bs) p) s = .next t →
    t.out.length ≤ 64 * bs.length ∧ (bs = [] → t.status = .ok ∧ t.out = [])

/-! ## LZW -/

/-- R266 to R271, R274: what each class of LZW code does. -/
def Obligations.LzwCodeEffects : Prop :=
  ∀ s : State,
    exec .lzwClear s = .next { s with work := { s.work with lzw := { s.work.lzw with
      learned := [], codeLength := 9, prev := none } } } ∧
    exec .lzwEod s = .next (s.decodeDone s.work.out) ∧
    (∀ code : BitVec 12, exec (.lzwIllegal code) s = .next (s.decodeFault .valueOutOfRange)) ∧
    (∀ code : BitVec 12, code.toNat < s.work.lzw.tableSize → code.toNat ≠ 256 → code.toNat ≠ 257 →
      (s.work.lzw.prev = none → exec (.lzwKnown code) s = .next { s with work := { s.work with
        out := s.work.out ++ s.work.lzw.entry code.toNat,
        lzw := { s.work.lzw with
          char := (s.work.lzw.entry code.toNat).headD 0, prev := some code } } }) ∧
      (∀ p, s.work.lzw.prev = some p → exec (.lzwKnown code) s = .next { s with work := { s.work with
        out := s.work.out ++ s.work.lzw.entry code.toNat,
        lzw := { s.work.lzw with
          char := (s.work.lzw.entry code.toNat).headD 0, prev := some code,
          learned := s.work.lzw.learned
            ++ [s.work.lzw.entry p.toNat ++ [(s.work.lzw.entry code.toNat).headD 0]],
          codeLength := s.work.lzw.codeLength
            + (if s.work.lzw.tableSize + 1 ∈ [511, 1023, 2047] then 1 else 0) } } })) ∧
    (∀ (code p : BitVec 12) (data : Bytes), s.work.lzw.prev = some p →
      code.toNat = s.work.lzw.tableSize → data = s.work.lzw.entry p.toNat ++ [s.work.lzw.char] →
      exec (.lzwNotYetDefined code) s = .next { s with work := { s.work with
        out := s.work.out ++ data,
        lzw := { s.work.lzw with
          char := data.headD 0, prev := some code,
          learned := s.work.lzw.learned ++ [s.work.lzw.entry p.toNat ++ [data.headD 0]],
          codeLength := s.work.lzw.codeLength
            + (if s.work.lzw.tableSize + 1 ∈ [511, 1023, 2047] then 1 else 0) } } })

/-- R269: while the invariants hold, the entry that a not-yet-defined code learns is the value it emitted, the
previous entry and its own first byte. -/
def Obligations.LzwNotYetDefinedEntry : Prop :=
  ∀ (s : State) (code p : BitVec 12), s.work.lzw.Inv → s.work.lzw.prev = some p →
    code.toNat = s.work.lzw.tableSize →
    ∃ t x, exec (.lzwNotYetDefined code) s = .next t ∧ t.work.out = s.work.out ++ x ∧
      t.work.lzw.entry code.toNat = x ∧
      x = s.work.lzw.entry p.toNat ++ (s.work.lzw.entry p.toNat).take 1

/-- R71, R262 to R266, R270, R271, R274: a stream of a clear code, one single-byte code for each byte at the
width the schedule of R271 gives it, and the end-of-data code decodes to the bytes, for any number of them,
and nothing after the end-of-data code matters. -/
def Obligations.LzwByteStreamDecodes : Prop :=
  ∀ (bs junk : Bytes) (p : Option Params) (s : State),
    exec (.lzwDecode (some (lzwByteStream bs ++ junk)) p) s = .next (s.decodeDone bs)

/-! ## FLATE and predictor reversal -/

/-- R189, R193, R210, R213 to R215, R355: the result of `FLATE.DECODE` up to the PNG rows, in the order of its
checks. The defaults 1 and 8 are those of R37. -/
def Obligations.FlateDecodeOrder : Prop :=
  ∀ (bs : Bytes) (s : State),
    (inflate bs = none → ∀ p, exec (.flateDecode (some bs) p) s =
      .next (s.decodeFault .decompressionError)) ∧
    ∀ y, inflate bs = some y →
      exec (.flateDecode (some bs) none) s = .next (s.decodeDone y) ∧
      ∀ q : Params,
        (q.predictor.getD 1 = 1 →
          exec (.flateDecode (some bs) (some q)) s = .next (s.decodeDone y)) ∧
        (q.predictor.getD 1 = 2 →
          exec (.flateDecode (some bs) (some q)) s = .next (s.decodeFault .unsupportedOperation)) ∧
        (q.predictor.getD 1 ≤ 0 ∨ 3 ≤ q.predictor.getD 1 ∧ q.predictor.getD 1 ≤ 9 →
          exec (.flateDecode (some bs) (some q)) s = .next (s.decodeFault .invalidPredictor)) ∧
        (10 ≤ q.predictor.getD 1 →
          q.columns.getD 1 < 1 ∨ q.bitsPerComponent.getD 8 < 1 →
          exec (.flateDecode (some bs) (some q)) s = .next (s.decodeFault .invalidArgument))

/-- R212, R216 to R224: `FLATE.DECODE` with a PNG predictor. With a bad row tag it faults; else every byte of
the output is its raw byte and the prediction from its reconstructed neighbours, and a cut last row gives
the bytes it has. -/
def Obligations.PngReversalPointwise : Prop :=
  ∀ (bs y : Bytes) (q : Params) (rowBytes : Nat) (s : State), inflate bs = some y →
    10 ≤ q.predictor.getD 1 → 1 ≤ q.columns.getD 1 → 1 ≤ q.bitsPerComponent.getD 8 →
    (rowBytes : Int) = (q.columns.getD 1 * q.bitsPerComponent.getD 8 + 7) / 8 →
    (HasBadTag rowBytes y →
      exec (.flateDecode (some bs) (some q)) s = .next (s.decodeFault .invalidPredictor)) ∧
    (¬ HasBadTag rowBytes y → ∃ x, PngReversed rowBytes y x ∧
      exec (.flateDecode (some bs) (some q)) s = .next (s.decodeDone x))

/-- R210, R211, R213 to R215: what each Predictor class does when its turn has come. -/
def Obligations.PredictorClassEffects : Prop :=
  ∀ s : State,
    exec .predictorNone s = .next (s.decodeDone s.work.inf.infl) ∧
    exec .predictorTiff s = .next (s.decodeFault .unsupportedOperation) ∧
    (∀ v, exec (.predictorUndefined v) s = .next (s.decodeFault .invalidPredictor)) ∧
    (∀ v, 1 ≤ s.work.pred.columns → 1 ≤ s.work.pred.bpc →
      exec (.predictorPng v) s = .next { s with work := { s.work with
        phase := .png, out := [], ip := 0,
        pred := { s.work.pred with
          rowBytes := (s.work.pred.columns.toNat * s.work.pred.bpc.toNat + 7) / 8,
          prev := [] } } }) ∧
    (∀ v, s.work.pred.columns < 1 ∨ s.work.pred.bpc < 1 →
      exec (.predictorPng v) s = .next (s.decodeFault .invalidArgument))

/-- R216 to R223: what one row of each tag does, byte by byte; an illegal tag faults. -/
def Obligations.PngRowEffects : Prop :=
  ∀ s : State,
    (∀ (i : Instr) (tag : Byte), (i, tag) ∈ [(.pngTagNone, 0), (.pngTagSub, 1), (.pngTagUp, 2),
        (.pngTagAverage, 3), (.pngTagPaeth, 4)] →
      ∃ row : Bytes, exec i s = .next { s with work := { s.work with
          out := s.work.out ++ row,
          ip := s.work.ip + row.length,
          pred := { s.work.pred with
            tag := tag, cur := row, col := row.length,
            prev := row ++ s.work.pred.prev.drop row.length } } } ∧
        row.length = min s.work.pred.rowBytes (s.work.inf.infl.length - s.work.ip) ∧
        ∀ j, j < row.length →
          (row.getD j 0).toNat = ((s.work.inf.infl.getD (s.work.ip + j) 0).toNat
            + predicted tag.toNat (if j = 0 then 0 else (row.getD (j - 1) 0).toNat)
                (s.work.pred.prev.getD j 0).toNat
                (if j = 0 then 0 else (s.work.pred.prev.getD (j - 1) 0).toNat)) % 256) ∧
    (∀ tag, exec (.pngTagIllegal tag) s = .next (s.decodeFault .invalidPredictor))

/-! ## zlib and DEFLATE -/

/-- R291: the zlib header. -/
def Obligations.ZlibHeaderEffect : Prop :=
  ∀ (cmf flg : Byte) (s : State),
    exec (.zlibHeader cmf flg) s = .next
      (if (cmf.toNat * 256 + flg.toNat) % 31 = 0 ∧ cmf.toNat % 16 = 8 ∧ cmf.toNat / 16 ≤ 7 ∧
          flg.toNat / 32 % 2 = 0 then
        { s with work := { s.work with phase := .blockHeader, inf := .start } }
      else s.decodeFault .decompressionError)

/-- R294, R293: a stored block, from the byte boundary after its header on. -/
def Obligations.StoredBlockEffect : Prop :=
  ∀ (s : State) (final : Bool) (q : Nat), q = (s.work.inf.bitPos + 7) / 8 →
    (∀ (l0 l1 n0 n1 : Byte) (rest : Bytes), s.work.input.drop (2 + q) = l0 :: l1 :: n0 :: n1 :: rest →
      (n0.toNat + 256 * n1.toNat = 65535 - (l0.toNat + 256 * l1.toNat) →
        l0.toNat + 256 * l1.toNat ≤ rest.length →
        exec (.deflateBlockStored final) s = .next { s with work := { s.work with
          phase := if final then .trailer else .blockHeader,
          inf := { s.work.inf with
            bfinal := final,
            infl := s.work.inf.infl ++ rest.take (l0.toNat + 256 * l1.toNat),
            bitPos := 8 * (q + 4 + (l0.toNat + 256 * l1.toNat)) } } }) ∧
      (n0.toNat + 256 * n1.toNat ≠ 65535 - (l0.toNat + 256 * l1.toNat) ∨
          rest.length < l0.toNat + 256 * l1.toNat →
        exec (.deflateBlockStored final) s = .next (s.decodeFault .decompressionError))) ∧
    (s.work.input.length < 2 + q + 4 →
      exec (.deflateBlockStored final) s = .next (s.decodeFault .decompressionError))

/-- R293, R297: a block with the fixed codes, and the illegal block type. -/
def Obligations.FixedAndIllegalBlockEffects : Prop :=
  ∀ (s : State) (final : Bool),
    exec (.deflateBlockFixed final) s = .next { s with work := { s.work with
      phase := .data,
      inf := { s.work.inf with
        bfinal := final,
        litCode := canonicalCode (List.replicate 144 8 ++ List.replicate 112 9 ++ List.replicate 24 7
          ++ List.replicate 8 8),
        distCode := canonicalCode (List.replicate 32 5) } } } ∧
    exec (.deflateBlockIllegal final) s = .next (s.decodeFault .decompressionError)

/-- R298, R299, R301, R312 (case 8): the header of a block with dynamic codes. `vals` are the code-length-code
lengths in the order of R299. Where the input ends inside the header, the command faults. -/
def Obligations.DynamicBlockEffect : Prop :=
  ∀ (s : State) (final : Bool),
    (readLsb s.work.input s.work.inf.bitPos 5 = none ∨ readLsb s.work.input (s.work.inf.bitPos + 5) 5 = none ∨
        readLsb s.work.input (s.work.inf.bitPos + 10) 4 = none →
      exec (.deflateBlockDynamic final) s = .next (s.decodeFault .decompressionError)) ∧
    ∀ hlit hdist hclen : Nat,
      readLsb s.work.input s.work.inf.bitPos 5 = some hlit →
      readLsb s.work.input (s.work.inf.bitPos + 5) 5 = some hdist →
      readLsb s.work.input (s.work.inf.bitPos + 10) 4 = some hclen →
      (29 < hlit ∨ 29 < hdist →
        exec (.deflateBlockDynamic final) s = .next (s.decodeFault .decompressionError)) ∧
      ((∃ j, j < hclen + 4 ∧ readLsb s.work.input (s.work.inf.bitPos + 14 + 3 * j) 3 = none) →
        exec (.deflateBlockDynamic final) s = .next (s.decodeFault .decompressionError)) ∧
      (hlit ≤ 29 → hdist ≤ 29 → ∀ vals : List Nat, vals.length = hclen + 4 →
        (∀ j, j < hclen + 4 →
          readLsb s.work.input (s.work.inf.bitPos + 14 + 3 * j) 3 = some (vals.getD j 0)) →
        (kraftSum vals = 2 ^ 15 → exec (.deflateBlockDynamic final) s =
          .next { s with work := { s.work with
            phase := .codeLengths,
            inf := { s.work.inf with
              bitPos := s.work.inf.bitPos + 14 + 3 * (hclen + 4),
              bfinal := final,
              nLit := hlit + 257,
              nDist := hdist + 1,
              lens := [],
              clCode := canonicalCode ((List.range 19).map (fun sym =>
                vals.getD ([16, 17, 18, 0, 8, 7, 9, 6, 10, 5, 11, 4, 12, 3, 13, 2, 14, 1, 15].idxOf sym)
                  0)) } } }) ∧
        (kraftSum vals ≠ 2 ^ 15 →
          exec (.deflateBlockDynamic final) s = .next (s.decodeFault .decompressionError)))

/-- R300, R301, R312 (case 8): the symbols of the code-length code: lengths are appended; the last ones build the
codes of the block; too many are a fault, and so is symbol 16 with no previous length, and a symbol whose
extra bits the input does not have. -/
def Obligations.CodeLengthSymbolEffects : Prop :=
  ∀ s : State,
    (∀ (i : Instr) (xs all : List Nat) (used : Nat), StandsForLengths i s xs used →
      all = s.work.inf.lens ++ xs → (∀ l ∈ all, l ≤ 15) →
      (all.length < s.work.inf.nLit + s.work.inf.nDist →
        exec i s = .next { s with work := { s.work with inf := { s.work.inf with
          lens := all, bitPos := s.work.inf.bitPos + used } } }) ∧
      (s.work.inf.nLit + s.work.inf.nDist < all.length →
        exec i s = .next (s.decodeFault .decompressionError)) ∧
      (all.length = s.work.inf.nLit + s.work.inf.nDist →
        (all.take s.work.inf.nLit).getD 256 0 ≠ 0 → AcceptableLengths (all.take s.work.inf.nLit) →
        AcceptableLengths (all.drop s.work.inf.nLit) →
        exec i s = .next { s with work := { s.work with
          phase := .data,
          inf := { s.work.inf with
            lens := all,
            bitPos := s.work.inf.bitPos + used,
            litCode := canonicalCode (all.take s.work.inf.nLit),
            distCode := canonicalCode (all.drop s.work.inf.nLit) } } }) ∧
      (all.length = s.work.inf.nLit + s.work.inf.nDist →
        (all.take s.work.inf.nLit).getD 256 0 = 0 ∨ ¬ AcceptableLengths (all.take s.work.inf.nLit) ∨
          ¬ AcceptableLengths (all.drop s.work.inf.nLit) →
        exec i s = .next (s.decodeFault .decompressionError))) ∧
    (s.work.inf.lens = [] → exec .deflateCodelen16 s = .next (s.decodeFault .decompressionError)) ∧
    (readLsb s.work.input s.work.inf.bitPos 2 = none →
      exec .deflateCodelen16 s = .next (s.decodeFault .decompressionError)) ∧
    (readLsb s.work.input s.work.inf.bitPos 3 = none →
      exec .deflateCodelen17 s = .next (s.decodeFault .decompressionError)) ∧
    (readLsb s.work.input s.work.inf.bitPos 7 = none →
      exec .deflateCodelen18 s = .next (s.decodeFault .decompressionError))

/-- R303 to R305, R307: the literal/length symbols, and the illegal symbols of both alphabets. -/
def Obligations.DataSymbolEffects : Prop :=
  ∀ s : State,
    (∀ b, exec (.deflateSymLiteral b) s = .next { s with work := { s.work with
      inf := { s.work.inf with infl := s.work.inf.infl ++ [b] } } }) ∧
    exec .deflateSymEndOfBlock s = .next { s with work := { s.work with
      phase := if s.work.inf.bfinal then .trailer else .blockHeader } } ∧
    (∀ sym : BitVec 9, 257 ≤ sym.toNat → sym.toNat ≤ 285 →
      (∀ x, readLsb s.work.input s.work.inf.bitPos (lengthExtraOf (sym.toNat - 257)) = some x →
        exec (.deflateSymLength sym) s = .next { s with work := { s.work with
          phase := .distance,
          inf := { s.work.inf with
            copyLen := lengthBaseOf (sym.toNat - 257) + x,
            bitPos := s.work.inf.bitPos + lengthExtraOf (sym.toNat - 257) } } }) ∧
      (readLsb s.work.input s.work.inf.bitPos (lengthExtraOf (sym.toNat - 257)) = none →
        exec (.deflateSymLength sym) s = .next (s.decodeFault .decompressionError))) ∧
    (∀ sym, exec (.deflateSymIllegal sym) s = .next (s.decodeFault .decompressionError))

/-- R306, R309, R312 (case 8): a distance symbol: the copy appends `copyLen` bytes, each the byte `D` back, so that
a copy longer than its distance repeats; a distance past the first byte of the output faults, and so does a
symbol whose extra bits the input does not have. -/
def Obligations.DistanceSymbolCopies : Prop :=
  ∀ (s : State) (sym : BitVec 5), sym.toNat ≤ 29 →
    (readLsb s.work.input s.work.inf.bitPos (distExtraOf sym.toNat) = none →
      exec (.deflateSymDistance sym) s = .next (s.decodeFault .decompressionError)) ∧
    ∀ x d : Nat, readLsb s.work.input s.work.inf.bitPos (distExtraOf sym.toNat) = some x →
    d = distBaseOf sym.toNat + x →
    (d ≤ s.work.inf.infl.length → ∃ copied : Bytes,
      exec (.deflateSymDistance sym) s = .next { s with work := { s.work with
        phase := .data,
        inf := { s.work.inf with
          bitPos := s.work.inf.bitPos + distExtraOf sym.toNat,
          infl := s.work.inf.infl ++ copied } } } ∧
      copied.length = s.work.inf.copyLen ∧
      ∀ j, j < s.work.inf.copyLen →
        copied.getD j 0 = s.work.inf.infl.getD (s.work.inf.infl.length - d + j % d) 0) ∧
    (s.work.inf.infl.length < d →
      exec (.deflateSymDistance sym) s = .next (s.decodeFault .decompressionError))

/-- R310, R311, R189: the trailer's checksum against the two sums over all inflated bytes; then the command is
done, or the parameters are loaded with the defaults of R37 for predictor reversal. -/
def Obligations.TrailerEffect : Prop :=
  ∀ (s : State) (adler : BitVec 32),
    (adler.toNat ≠ adlerOfSums s.work.inf.infl →
      exec (.zlibTrailer adler) s = .next (s.decodeFault .decompressionError)) ∧
    (adler.toNat = adlerOfSums s.work.inf.infl →
      (s.work.params = none → exec (.zlibTrailer adler) s = .next (s.decodeDone s.work.inf.infl)) ∧
      (∀ q, s.work.params = some q → exec (.zlibTrailer adler) s = .next { s with work := { s.work with
        phase := .predictor,
        ip := 2 + s.work.inf.bitPos / 8,
        pred := { s.work.pred with
          predictor := q.predictor.getD 1,
          colors := q.colors.getD 1,
          bpc := q.bitsPerComponent.getD 8,
          columns := q.columns.getD 1,
          earlyChange := q.earlyChange.getD 1 } } }))

/-- R291 to R293, R296, R297, R303, R304, R310, R311: a zlib stream of one final block that holds bytes as
literals in the fixed code of R297 decodes to the bytes. -/
def Obligations.FixedBlockStreamDecodes : Prop :=
  ∀ (bs : Bytes) (s : State),
    exec (.flateDecode (some (fixedStream bs)) none) s = .next (s.decodeDone bs)

/-- R192, R290: inflate reads its stream up to the end of the trailer and nothing after it: any bytes may
follow, and any shorter prefix is an error. -/
def Obligations.InflateReadsExactlyItsStream : Prop :=
  ∀ (bs y : Bytes) (consumed : Nat), zlibInflate bs = some (y, consumed) →
    consumed ≤ bs.length ∧
    (∀ junk, zlibInflate (bs.take consumed ++ junk) = some (y, consumed)) ∧
    (∀ k, k < consumed → zlibInflate (bs.take k) = none)

/-- R341, R93: the status codes, and what the host sees of a result. -/
def Obligations.StatusCodesOfResults : Prop :=
  (Status.ok.code = 0 ∧ Status.invalidState.code = 1 ∧ Status.invalidArgument.code = 2 ∧
    Status.invalidHandle.code = 3 ∧ Status.outOfMemory.code = 4 ∧ Status.valueOutOfRange.code = 5 ∧
    Status.invalidPredictor.code = 6 ∧ Status.unsupportedOperation.code = 7 ∧
    Status.decompressionError.code = 8 ∧ Status.sinkFailure.code = 9) ∧
  ∀ s : State, s.response = ⟨s.status.code, s.out, s.out.length⟩

end
end

