-- ==== Sys2Proof/Laws/State.lean ====
section
/-! SUPPORT. One lemma per field per update of the state: what each named update of Machine/Flags.lean and
Machine/Ops.lean writes, and that it leaves every other field alone. -/

namespace Sys2Proof.Machine

/-! ### `respond e x s` -/

@[simp] theorem respond_hex (e : Status) (x : Bytes) (s : State) : (respond e x s).hex = s.hex := rfl
@[simp] theorem respond_a85 (e : Status) (x : Bytes) (s : State) : (respond e x s).a85 = s.a85 := rfl
@[simp] theorem respond_flate (e : Status) (x : Bytes) (s : State) : (respond e x s).flate = s.flate := rfl
@[simp] theorem respond_a85Tuple (e : Status) (x : Bytes) (s : State) : (respond e x s).a85Tuple = s.a85Tuple := rfl
@[simp] theorem respond_a85Count (e : Status) (x : Bytes) (s : State) : (respond e x s).a85Count = s.a85Count := rfl
@[simp] theorem respond_flateZ (e : Status) (x : Bytes) (s : State) : (respond e x s).flateZ = s.flateZ := rfl
@[simp] theorem respond_status (e : Status) (x : Bytes) (s : State) : (respond e x s).status = e := rfl
@[simp] theorem respond_out (e : Status) (x : Bytes) (s : State) : (respond e x s).out = x := rfl
@[simp] theorem respond_work (e : Status) (x : Bytes) (s : State) : (respond e x s).work = s.work := rfl
@[simp] theorem respond_sinks (e : Status) (x : Bytes) (s : State) : (respond e x s).sinks = s.sinks := rfl
@[simp] theorem respond_port (e : Status) (x : Bytes) (s : State) : (respond e x s).port = s.port := rfl
@[simp] theorem respond_answers (e : Status) (x : Bytes) (s : State) : (respond e x s).answers = s.answers := rfl
@[simp] theorem respond_draws (e : Status) (x : Bytes) (s : State) : (respond e x s).draws = s.draws := rfl

/-! ### `returnOk s` -/

@[simp] theorem returnOk_hex (s : State) : (returnOk s).hex = s.hex := rfl
@[simp] theorem returnOk_a85 (s : State) : (returnOk s).a85 = s.a85 := rfl
@[simp] theorem returnOk_flate (s : State) : (returnOk s).flate = s.flate := rfl
@[simp] theorem returnOk_a85Tuple (s : State) : (returnOk s).a85Tuple = s.a85Tuple := rfl
@[simp] theorem returnOk_a85Count (s : State) : (returnOk s).a85Count = s.a85Count := rfl
@[simp] theorem returnOk_flateZ (s : State) : (returnOk s).flateZ = s.flateZ := rfl
@[simp] theorem returnOk_status (s : State) : (returnOk s).status = .ok := rfl
@[simp] theorem returnOk_out (s : State) : (returnOk s).out = [] := rfl
@[simp] theorem returnOk_work (s : State) : (returnOk s).work = s.work := rfl
@[simp] theorem returnOk_sinks (s : State) : (returnOk s).sinks = s.sinks := rfl
@[simp] theorem returnOk_port (s : State) : (returnOk s).port = s.port := rfl
@[simp] theorem returnOk_answers (s : State) : (returnOk s).answers = s.answers := rfl
@[simp] theorem returnOk_draws (s : State) : (returnOk s).draws = s.draws := rfl

/-! ### `returnOut x s` -/

@[simp] theorem returnOut_hex (x : Bytes) (s : State) : (returnOut x s).hex = s.hex := rfl
@[simp] theorem returnOut_a85 (x : Bytes) (s : State) : (returnOut x s).a85 = s.a85 := rfl
@[simp] theorem returnOut_flate (x : Bytes) (s : State) : (returnOut x s).flate = s.flate := rfl
@[simp] theorem returnOut_a85Tuple (x : Bytes) (s : State) : (returnOut x s).a85Tuple = s.a85Tuple := rfl
@[simp] theorem returnOut_a85Count (x : Bytes) (s : State) : (returnOut x s).a85Count = s.a85Count := rfl
@[simp] theorem returnOut_flateZ (x : Bytes) (s : State) : (returnOut x s).flateZ = s.flateZ := rfl
@[simp] theorem returnOut_status (x : Bytes) (s : State) : (returnOut x s).status = .ok := rfl
@[simp] theorem returnOut_out (x : Bytes) (s : State) : (returnOut x s).out = x := rfl
@[simp] theorem returnOut_work (x : Bytes) (s : State) : (returnOut x s).work = .idle := rfl
@[simp] theorem returnOut_sinks (x : Bytes) (s : State) : (returnOut x s).sinks = s.sinks := rfl
@[simp] theorem returnOut_port (x : Bytes) (s : State) : (returnOut x s).port = s.port := rfl
@[simp] theorem returnOut_answers (x : Bytes) (s : State) : (returnOut x s).answers = s.answers := rfl
@[simp] theorem returnOut_draws (x : Bytes) (s : State) : (returnOut x s).draws = s.draws := rfl

/-! ### `s.setSession .hex x` -/

@[simp] theorem setSession_hex_hex (s : State) (x : Session) : (s.setSession .hex x).hex = x := rfl
@[simp] theorem setSession_hex_a85 (s : State) (x : Session) : (s.setSession .hex x).a85 = s.a85 := rfl
@[simp] theorem setSession_hex_flate (s : State) (x : Session) : (s.setSession .hex x).flate = s.flate := rfl
@[simp] theorem setSession_hex_a85Tuple (s : State) (x : Session) : (s.setSession .hex x).a85Tuple = s.a85Tuple := rfl
@[simp] theorem setSession_hex_a85Count (s : State) (x : Session) : (s.setSession .hex x).a85Count = s.a85Count := rfl
@[simp] theorem setSession_hex_flateZ (s : State) (x : Session) : (s.setSession .hex x).flateZ = s.flateZ := rfl
@[simp] theorem setSession_hex_status (s : State) (x : Session) : (s.setSession .hex x).status = s.status := rfl
@[simp] theorem setSession_hex_out (s : State) (x : Session) : (s.setSession .hex x).out = s.out := rfl
@[simp] theorem setSession_hex_work (s : State) (x : Session) : (s.setSession .hex x).work = s.work := rfl
@[simp] theorem setSession_hex_sinks (s : State) (x : Session) : (s.setSession .hex x).sinks = s.sinks := rfl
@[simp] theorem setSession_hex_port (s : State) (x : Session) : (s.setSession .hex x).port = s.port := rfl
@[simp] theorem setSession_hex_answers (s : State) (x : Session) : (s.setSession .hex x).answers = s.answers := rfl
@[simp] theorem setSession_hex_draws (s : State) (x : Session) : (s.setSession .hex x).draws = s.draws := rfl

/-! ### `s.setSession .a85 x` -/

@[simp] theorem setSession_a85_hex (s : State) (x : Session) : (s.setSession .a85 x).hex = s.hex := rfl
@[simp] theorem setSession_a85_a85 (s : State) (x : Session) : (s.setSession .a85 x).a85 = x := rfl
@[simp] theorem setSession_a85_flate (s : State) (x : Session) : (s.setSession .a85 x).flate = s.flate := rfl
@[simp] theorem setSession_a85_a85Tuple (s : State) (x : Session) : (s.setSession .a85 x).a85Tuple = s.a85Tuple := rfl
@[simp] theorem setSession_a85_a85Count (s : State) (x : Session) : (s.setSession .a85 x).a85Count = s.a85Count := rfl
@[simp] theorem setSession_a85_flateZ (s : State) (x : Session) : (s.setSession .a85 x).flateZ = s.flateZ := rfl
@[simp] theorem setSession_a85_status (s : State) (x : Session) : (s.setSession .a85 x).status = s.status := rfl
@[simp] theorem setSession_a85_out (s : State) (x : Session) : (s.setSession .a85 x).out = s.out := rfl
@[simp] theorem setSession_a85_work (s : State) (x : Session) : (s.setSession .a85 x).work = s.work := rfl
@[simp] theorem setSession_a85_sinks (s : State) (x : Session) : (s.setSession .a85 x).sinks = s.sinks := rfl
@[simp] theorem setSession_a85_port (s : State) (x : Session) : (s.setSession .a85 x).port = s.port := rfl
@[simp] theorem setSession_a85_answers (s : State) (x : Session) : (s.setSession .a85 x).answers = s.answers := rfl
@[simp] theorem setSession_a85_draws (s : State) (x : Session) : (s.setSession .a85 x).draws = s.draws := rfl

/-! ### `s.setSession .flate x` -/

@[simp] theorem setSession_flate_hex (s : State) (x : Session) : (s.setSession .flate x).hex = s.hex := rfl
@[simp] theorem setSession_flate_a85 (s : State) (x : Session) : (s.setSession .flate x).a85 = s.a85 := rfl
@[simp] theorem setSession_flate_flate (s : State) (x : Session) : (s.setSession .flate x).flate = x := rfl
@[simp] theorem setSession_flate_a85Tuple (s : State) (x : Session) : (s.setSession .flate x).a85Tuple = s.a85Tuple := rfl
@[simp] theorem setSession_flate_a85Count (s : State) (x : Session) : (s.setSession .flate x).a85Count = s.a85Count := rfl
@[simp] theorem setSession_flate_flateZ (s : State) (x : Session) : (s.setSession .flate x).flateZ = s.flateZ := rfl
@[simp] theorem setSession_flate_status (s : State) (x : Session) : (s.setSession .flate x).status = s.status := rfl
@[simp] theorem setSession_flate_out (s : State) (x : Session) : (s.setSession .flate x).out = s.out := rfl
@[simp] theorem setSession_flate_work (s : State) (x : Session) : (s.setSession .flate x).work = s.work := rfl
@[simp] theorem setSession_flate_sinks (s : State) (x : Session) : (s.setSession .flate x).sinks = s.sinks := rfl
@[simp] theorem setSession_flate_port (s : State) (x : Session) : (s.setSession .flate x).port = s.port := rfl
@[simp] theorem setSession_flate_answers (s : State) (x : Session) : (s.setSession .flate x).answers = s.answers := rfl
@[simp] theorem setSession_flate_draws (s : State) (x : Session) : (s.setSession .flate x).draws = s.draws := rfl

/-! ### `s.clearBuffers .a85 z` -/

@[simp] theorem clearBuffers_a85_hex (s : State) (z : ZState) : (s.clearBuffers .a85 z).hex = s.hex := rfl
@[simp] theorem clearBuffers_a85_a85 (s : State) (z : ZState) : (s.clearBuffers .a85 z).a85 = s.a85 := rfl
@[simp] theorem clearBuffers_a85_flate (s : State) (z : ZState) : (s.clearBuffers .a85 z).flate = s.flate := rfl
@[simp] theorem clearBuffers_a85_a85Tuple (s : State) (z : ZState) : (s.clearBuffers .a85 z).a85Tuple = 0 := rfl
@[simp] theorem clearBuffers_a85_a85Count (s : State) (z : ZState) : (s.clearBuffers .a85 z).a85Count = 0 := rfl
@[simp] theorem clearBuffers_a85_flateZ (s : State) (z : ZState) : (s.clearBuffers .a85 z).flateZ = s.flateZ := rfl
@[simp] theorem clearBuffers_a85_status (s : State) (z : ZState) : (s.clearBuffers .a85 z).status = s.status := rfl
@[simp] theorem clearBuffers_a85_out (s : State) (z : ZState) : (s.clearBuffers .a85 z).out = s.out := rfl
@[simp] theorem clearBuffers_a85_work (s : State) (z : ZState) : (s.clearBuffers .a85 z).work = s.work := rfl
@[simp] theorem clearBuffers_a85_sinks (s : State) (z : ZState) : (s.clearBuffers .a85 z).sinks = s.sinks := rfl
@[simp] theorem clearBuffers_a85_port (s : State) (z : ZState) : (s.clearBuffers .a85 z).port = s.port := rfl
@[simp] theorem clearBuffers_a85_answers (s : State) (z : ZState) : (s.clearBuffers .a85 z).answers = s.answers := rfl
@[simp] theorem clearBuffers_a85_draws (s : State) (z : ZState) : (s.clearBuffers .a85 z).draws = s.draws := rfl

/-! ### `s.clearBuffers .flate z` -/

@[simp] theorem clearBuffers_flate_hex (s : State) (z : ZState) : (s.clearBuffers .flate z).hex = s.hex := rfl
@[simp] theorem clearBuffers_flate_a85 (s : State) (z : ZState) : (s.clearBuffers .flate z).a85 = s.a85 := rfl
@[simp] theorem clearBuffers_flate_flate (s : State) (z : ZState) : (s.clearBuffers .flate z).flate = s.flate := rfl
@[simp] theorem clearBuffers_flate_a85Tuple (s : State) (z : ZState) : (s.clearBuffers .flate z).a85Tuple = s.a85Tuple := rfl
@[simp] theorem clearBuffers_flate_a85Count (s : State) (z : ZState) : (s.clearBuffers .flate z).a85Count = s.a85Count := rfl
@[simp] theorem clearBuffers_flate_flateZ (s : State) (z : ZState) : (s.clearBuffers .flate z).flateZ = z := rfl
@[simp] theorem clearBuffers_flate_status (s : State) (z : ZState) : (s.clearBuffers .flate z).status = s.status := rfl
@[simp] theorem clearBuffers_flate_out (s : State) (z : ZState) : (s.clearBuffers .flate z).out = s.out := rfl
@[simp] theorem clearBuffers_flate_work (s : State) (z : ZState) : (s.clearBuffers .flate z).work = s.work := rfl
@[simp] theorem clearBuffers_flate_sinks (s : State) (z : ZState) : (s.clearBuffers .flate z).sinks = s.sinks := rfl
@[simp] theorem clearBuffers_flate_port (s : State) (z : ZState) : (s.clearBuffers .flate z).port = s.port := rfl
@[simp] theorem clearBuffers_flate_answers (s : State) (z : ZState) : (s.clearBuffers .flate z).answers = s.answers := rfl
@[simp] theorem clearBuffers_flate_draws (s : State) (z : ZState) : (s.clearBuffers .flate z).draws = s.draws := rfl

/-! ### `closeSession .hex z s` -/

@[simp] theorem closeSession_hex_hex (z : ZState) (s : State) : (closeSession .hex z s).hex = .inactive := rfl
@[simp] theorem closeSession_hex_a85 (z : ZState) (s : State) : (closeSession .hex z s).a85 = s.a85 := rfl
@[simp] theorem closeSession_hex_flate (z : ZState) (s : State) : (closeSession .hex z s).flate = s.flate := rfl
@[simp] theorem closeSession_hex_a85Tuple (z : ZState) (s : State) : (closeSession .hex z s).a85Tuple = s.a85Tuple := rfl
@[simp] theorem closeSession_hex_a85Count (z : ZState) (s : State) : (closeSession .hex z s).a85Count = s.a85Count := rfl
@[simp] theorem closeSession_hex_flateZ (z : ZState) (s : State) : (closeSession .hex z s).flateZ = s.flateZ := rfl
@[simp] theorem closeSession_hex_status (z : ZState) (s : State) : (closeSession .hex z s).status = s.status := rfl
@[simp] theorem closeSession_hex_out (z : ZState) (s : State) : (closeSession .hex z s).out = s.out := rfl
@[simp] theorem closeSession_hex_work (z : ZState) (s : State) : (closeSession .hex z s).work = s.work := rfl
@[simp] theorem closeSession_hex_sinks (z : ZState) (s : State) : (closeSession .hex z s).sinks = s.sinks := rfl
@[simp] theorem closeSession_hex_port (z : ZState) (s : State) : (closeSession .hex z s).port = s.port := rfl
@[simp] theorem closeSession_hex_answers (z : ZState) (s : State) : (closeSession .hex z s).answers = s.answers := rfl
@[simp] theorem closeSession_hex_draws (z : ZState) (s : State) : (closeSession .hex z s).draws = s.draws := rfl

/-! ### `closeSession .a85 z s` -/

@[simp] theorem closeSession_a85_hex (z : ZState) (s : State) : (closeSession .a85 z s).hex = s.hex := rfl
@[simp] theorem closeSession_a85_a85 (z : ZState) (s : State) : (closeSession .a85 z s).a85 = .inactive := rfl
@[simp] theorem closeSession_a85_flate (z : ZState) (s : State) : (closeSession .a85 z s).flate = s.flate := rfl
@[simp] theorem closeSession_a85_a85Tuple (z : ZState) (s : State) : (closeSession .a85 z s).a85Tuple = 0 := rfl
@[simp] theorem closeSession_a85_a85Count (z : ZState) (s : State) : (closeSession .a85 z s).a85Count = 0 := rfl
@[simp] theorem closeSession_a85_flateZ (z : ZState) (s : State) : (closeSession .a85 z s).flateZ = s.flateZ := rfl
@[simp] theorem closeSession_a85_status (z : ZState) (s : State) : (closeSession .a85 z s).status = s.status := rfl
@[simp] theorem closeSession_a85_out (z : ZState) (s : State) : (closeSession .a85 z s).out = s.out := rfl
@[simp] theorem closeSession_a85_work (z : ZState) (s : State) : (closeSession .a85 z s).work = s.work := rfl
@[simp] theorem closeSession_a85_sinks (z : ZState) (s : State) : (closeSession .a85 z s).sinks = s.sinks := rfl
@[simp] theorem closeSession_a85_port (z : ZState) (s : State) : (closeSession .a85 z s).port = s.port := rfl
@[simp] theorem closeSession_a85_answers (z : ZState) (s : State) : (closeSession .a85 z s).answers = s.answers := rfl
@[simp] theorem closeSession_a85_draws (z : ZState) (s : State) : (closeSession .a85 z s).draws = s.draws := rfl

/-! ### `closeSession .flate z s` -/

@[simp] theorem closeSession_flate_hex (z : ZState) (s : State) : (closeSession .flate z s).hex = s.hex := rfl
@[simp] theorem closeSession_flate_a85 (z : ZState) (s : State) : (closeSession .flate z s).a85 = s.a85 := rfl
@[simp] theorem closeSession_flate_flate (z : ZState) (s : State) : (closeSession .flate z s).flate = .inactive := rfl
@[simp] theorem closeSession_flate_a85Tuple (z : ZState) (s : State) : (closeSession .flate z s).a85Tuple = s.a85Tuple := rfl
@[simp] theorem closeSession_flate_a85Count (z : ZState) (s : State) : (closeSession .flate z s).a85Count = s.a85Count := rfl
@[simp] theorem closeSession_flate_flateZ (z : ZState) (s : State) : (closeSession .flate z s).flateZ = z := rfl
@[simp] theorem closeSession_flate_status (z : ZState) (s : State) : (closeSession .flate z s).status = s.status := rfl
@[simp] theorem closeSession_flate_out (z : ZState) (s : State) : (closeSession .flate z s).out = s.out := rfl
@[simp] theorem closeSession_flate_work (z : ZState) (s : State) : (closeSession .flate z s).work = s.work := rfl
@[simp] theorem closeSession_flate_sinks (z : ZState) (s : State) : (closeSession .flate z s).sinks = s.sinks := rfl
@[simp] theorem closeSession_flate_port (z : ZState) (s : State) : (closeSession .flate z s).port = s.port := rfl
@[simp] theorem closeSession_flate_answers (z : ZState) (s : State) : (closeSession .flate z s).answers = s.answers := rfl
@[simp] theorem closeSession_flate_draws (z : ZState) (s : State) : (closeSession .flate z s).draws = s.draws := rfl

/-! ### `resetBlock s` -/

@[simp] theorem resetBlock_hex (s : State) : (resetBlock s).hex = .inactive := rfl
@[simp] theorem resetBlock_a85 (s : State) : (resetBlock s).a85 = .inactive := rfl
@[simp] theorem resetBlock_flate (s : State) : (resetBlock s).flate = .inactive := rfl
@[simp] theorem resetBlock_a85Tuple (s : State) : (resetBlock s).a85Tuple = 0 := rfl
@[simp] theorem resetBlock_a85Count (s : State) : (resetBlock s).a85Count = 0 := rfl
@[simp] theorem resetBlock_flateZ (s : State) : (resetBlock s).flateZ = Config.encoder.zInit := rfl
@[simp] theorem resetBlock_status (s : State) : (resetBlock s).status = .ok := rfl
@[simp] theorem resetBlock_out (s : State) : (resetBlock s).out = [] := rfl
@[simp] theorem resetBlock_work (s : State) : (resetBlock s).work = .idle := rfl
@[simp] theorem resetBlock_sinks (s : State) : (resetBlock s).sinks = s.sinks := rfl
@[simp] theorem resetBlock_port (s : State) : (resetBlock s).port = s.port := rfl
@[simp] theorem resetBlock_answers (s : State) : (resetBlock s).answers = s.answers := rfl
@[simp] theorem resetBlock_draws (s : State) : (resetBlock s).draws = s.draws := rfl

/-! ### The hard-wired sessions (R22) and the units without buffered data -/

@[simp] theorem setSession_rle (s : State) (x : Session) : s.setSession .rle x = s := rfl
@[simp] theorem session_rle (s : State) : s.session .rle = .inactive := rfl
@[simp] theorem setSession_lzw (s : State) (x : Session) : s.setSession .lzw x = s := rfl
@[simp] theorem session_lzw (s : State) : s.session .lzw = .inactive := rfl
@[simp] theorem session_hex (s : State) : s.session .hex = s.hex := rfl
@[simp] theorem session_a85 (s : State) : s.session .a85 = s.a85 := rfl
@[simp] theorem session_flate (s : State) : s.session .flate = s.flate := rfl
@[simp] theorem clearBuffers_hex (s : State) (z : ZState) : s.clearBuffers .hex z = s := rfl
@[simp] theorem clearBuffers_rle (s : State) (z : ZState) : s.clearBuffers .rle z = s := rfl
@[simp] theorem clearBuffers_lzw (s : State) (z : ZState) : s.clearBuffers .lzw z = s := rfl

/-! ### The sessions of an update -/

@[simp] theorem session_respond (e : Status) (x : Bytes) (s : State) (u : UnitId) :
    (respond e x s).session u = s.session u := by cases u <;> rfl

@[simp] theorem session_returnOut (x : Bytes) (s : State) (u : UnitId) :
    (returnOut x s).session u = s.session u := by cases u <;> rfl

@[simp] theorem session_clearBuffers (s : State) (z : ZState) (u v : UnitId) :
    (s.clearBuffers u z).session v = s.session v := by cases u <;> cases v <;> rfl

@[simp] theorem session_resetBlock (s : State) (u : UnitId) : (resetBlock s).session u = .inactive := by
  cases u <;> rfl

/-- A write of one unit's session is not seen by another unit (R118: the automata are independent). -/
theorem session_setSession_of_ne {u v : UnitId} (h : v ≠ u) (s : State) (x : Session) :
    (s.setSession u x).session v = s.session v := by
  cases u <;> cases v <;> first | rfl | exact absurd rfl h

/-- A closed session is inactive and has no sink (R23, R352). -/
@[simp] theorem session_closeSession_self (s : State) (u : UnitId) (z : ZState) :
    (closeSession u z s).session u = .inactive := by
  cases u <;> rfl

/-! ### The effects of a fault -/

@[simp] theorem raise_keepsState (e : Status) (s : State) : raise .keepsState e s = respond e [] s := rfl

@[simp] theorem raise_closesSession (u : UnitId) (z : ZState) (e : Status) (s : State) :
    raise (.closesSession u z) e s = respond e [] (closeSession u z s) := rfl

@[simp] theorem raise_endsDecode (e : Status) (s : State) :
    raise .endsDecode e s = respond e [] { s with work := .idle } := rfl

/-! ### The parameters of the machine the host runs -/

@[simp] theorem parameters_stream : Config.parameters.toStreamParameters = Config.stream := rfl
@[simp] theorem parameters_inflate : Config.parameters.inflate = inflate := rfl
@[simp] theorem parameters_zInit : Config.parameters.zInit = Config.encoder.zInit := rfl
@[simp] theorem parameters_zFeed : Config.parameters.zFeed = Config.encoder.zFeed := rfl
@[simp] theorem parameters_zFinish : Config.parameters.zFinish = Config.encoder.zFinish := rfl
@[simp] theorem parameters_flateBuf : Config.parameters.flateBuf = Config.flateBuf := rfl
@[simp] theorem parameters_flateChunk : Config.parameters.flateChunk = Config.flateChunk := rfl
@[simp] theorem parameters_sinkAccepts : Config.parameters.sinkAccepts = Config.sinkAccepts := rfl

end Sys2Proof.Machine
end

