-- ==== Sys2Proof/Laws/Ops.lean ====
section
/-! SUPPORT. The laws of the sinks (20_memory.md R66 to R68) and, for each shared operation of
Machine/Ops.lean, the one lemma that says everything it can do. -/

namespace Sys2Proof.Machine

/-! ## SINKS -/

@[simp] theorem Memory.append_nil (m : Memory) (k : SinkId) : m.append k [] = m := by
  induction m with
  | nil => simp [Memory.append]
  | cons e m ih =>
    obtain ⟨t, b⟩ := e
    simp only [Memory.append, List.append_nil, if_true, ih]
    split
    · rfl
    · split <;> rfl

theorem Memory.append_append (m : Memory) (k : SinkId) (x y : Bytes) :
    (m.append k x).append k y = m.append k (x ++ y) := by
  by_cases hx : x = []
  · simp [hx]
  · induction m with
    | nil => simp [Memory.append, hx]
    | cons e m ih =>
      obtain ⟨t, b⟩ := e
      by_cases ht : t = k
      · simp [Memory.append, ht]
      · by_cases hlt : k.toNat < t.toNat
        · simp [Memory.append, ht, hlt, hx]
        · simp [Memory.append, ht, hlt, ih]

/-- A write leaves every other sink alone (R66). -/
theorem Memory.read_append_of_ne (m : Memory) {k j : SinkId} (h : j ≠ k) (x : Bytes) :
    (m.append k x).read j = m.read j := by
  induction m with
  | nil => by_cases hx : x = [] <;> simp [Memory.append, Memory.read, hx, h.symm]
  | cons e m ih =>
    obtain ⟨t, b⟩ := e
    by_cases ht : t = k
    · subst ht
      simp [Memory.append, Memory.read, h.symm]
    · by_cases hlt : k.toNat < t.toNat
      · by_cases hx : x = [] <;> simp [Memory.append, Memory.read, ht, hlt, hx, h.symm]
      · simp [Memory.append, Memory.read, ht, hlt, ih]

/-- A sink that is below every listed one has accepted nothing. -/
theorem Memory.read_eq_nil_of_lt (m : Memory) (k : SinkId)
    (h : m.all (fun e => k.toNat < e.1.toNat) = true) : m.read k = [] := by
  induction m with
  | nil => rfl
  | cons e m ih =>
    obtain ⟨t, b⟩ := e
    simp only [List.all_cons, Bool.and_eq_true, decide_eq_true_eq] at h
    have hne : t ≠ k := by rintro rfl; omega
    simp [Memory.read, hne, ih h.2]

/-- A write appends to its sink (R66). -/
theorem Memory.read_append_self (m : Memory) (k : SinkId) (x : Bytes) (hm : m.wf = true) :
    (m.append k x).read k = m.read k ++ x := by
  induction m with
  | nil => by_cases hx : x = [] <;> simp [Memory.append, Memory.read, hx]
  | cons e m ih =>
    obtain ⟨t, b⟩ := e
    simp only [Memory.wf, Bool.and_eq_true] at hm
    by_cases ht : t = k
    · simp [Memory.append, Memory.read, ht]
    · by_cases hlt : k.toNat < t.toNat
      · have hnil : Memory.read m k = [] := by
          refine Memory.read_eq_nil_of_lt m k ?_
          simp only [List.all_eq_true, decide_eq_true_eq] at hm ⊢
          intro e he
          have := hm.1.2 e he
          omega
        by_cases hx : x = [] <;> simp [Memory.append, Memory.read, ht, hlt, hx, hnil]
      · simp [Memory.append, Memory.read, ht, hlt, ih hm.2]

/-- A write below a bound keeps every listed sink above it. -/
theorem Memory.append_above (m : Memory) (k : SinkId) (x : Bytes) (n : Nat) (hn : n < k.toNat)
    (h : m.all (fun e => n < e.1.toNat) = true) : (m.append k x).all (fun e => n < e.1.toNat) = true := by
  induction m with
  | nil => by_cases hx : x = [] <;> simp [Memory.append, hx, hn]
  | cons e m ih =>
    obtain ⟨t, b⟩ := e
    simp only [List.all_cons, Bool.and_eq_true, decide_eq_true_eq] at h
    by_cases ht : t = k
    · simp only [Memory.append, ht, if_true, List.all_cons, Bool.and_eq_true, decide_eq_true_eq]
      exact ⟨hn, h.2⟩
    · by_cases hlt : k.toNat < t.toNat
      · by_cases hx : x = [] <;> simp only [Memory.append, ht, hlt, hx, if_true, if_false, List.all_cons,
          Bool.and_eq_true, decide_eq_true_eq]
        · exact h
        · exact ⟨hn, h⟩
      · simp only [Memory.append, ht, hlt, if_false, List.all_cons, Bool.and_eq_true, decide_eq_true_eq]
        exact ⟨h.1, ih h.2⟩

/-- A write keeps the canonical form. -/
theorem Memory.wf_append (m : Memory) (k : SinkId) (x : Bytes) (hm : m.wf = true) :
    (m.append k x).wf = true := by
  by_cases hx : x = []
  · simpa [hx] using hm
  · induction m with
    | nil => simp [Memory.append, hx, Memory.wf]
    | cons e m ih =>
      obtain ⟨t, b⟩ := e
      simp only [Memory.wf, Bool.and_eq_true, Bool.not_eq_true', List.isEmpty_eq_false_iff] at hm
      by_cases ht : t = k
      · simp only [Memory.append, ht, if_true, Memory.wf, Bool.and_eq_true, Bool.not_eq_true',
          List.isEmpty_eq_false_iff]
        exact ⟨⟨by simp [hm.1.1], ht ▸ hm.1.2⟩, hm.2⟩
      · by_cases hlt : k.toNat < t.toNat
        · simp only [Memory.append, ht, if_pos hlt, hx, if_false, Memory.wf, Bool.and_eq_true,
            Bool.not_eq_true', List.isEmpty_eq_false_iff, List.all_cons, decide_eq_true_eq]
          refine ⟨⟨hx, hlt, ?_⟩, hm⟩
          simp only [List.all_eq_true, decide_eq_true_eq] at hm ⊢
          intro e he
          have := hm.1.2 e he
          omega
        · have hgt : t.toNat < k.toNat := by
            have : t.toNat ≠ k.toNat := fun h => ht (BitVec.eq_of_toNat_eq h)
            omega
          simp only [Memory.append, ht, hlt, if_false, Memory.wf, Bool.and_eq_true, Bool.not_eq_true',
            List.isEmpty_eq_false_iff]
          exact ⟨⟨hm.1.1, Memory.append_above m k x _ hgt hm.1.2⟩, ih hm.2⟩

/-- The sinks at reset are in canonical form. -/
theorem reset_memory_wf : State.reset.sinks.wf = true := rfl

/-! ## The sink port -/

@[simp] theorem afterWrites_nil (s : State) (k : SinkId) : s.afterWrites 0 k [] = s := by
  simp [State.afterWrites]

theorem afterWrites_afterWrites (s : State) (m n : Nat) (k : SinkId) (x y : Bytes) :
    (s.afterWrites m k x).afterWrites n k y = s.afterWrites (m + n) k (x ++ y) := by
  simp [State.afterWrites, Memory.append_append, List.drop_drop, Nat.add_assoc]

/-- One write: accepted whole, or refused and nothing appended (R66, R67). -/
theorem sinkWrite_spec (P : Parameters) (k : SinkId) (x : Bytes) (s : State) :
    (s.accepts P k x = true ∧ sinkWrite P k x s = (true, s.afterWrites 1 k x)) ∨
    (s.accepts P k x = false ∧ sinkWrite P k x s = (false, s.afterWrites 1 k [])) := by
  unfold sinkWrite
  cases h : s.accepts P k x
  · exact .inr ⟨rfl, by simp [State.afterWrites]⟩
  · exact .inl ⟨rfl, by simp [State.afterWrites]⟩

theorem one_le_writeLength (cap wanted n : Nat) : 1 ≤ writeLength cap wanted n := by
  unfold writeLength; omega

theorem writeLength_le (cap wanted n : Nat) (hc : 1 ≤ cap) (hn : 1 ≤ n) :
    writeLength cap wanted n ≤ cap ∧ writeLength cap wanted n ≤ n := by
  unfold writeLength; omega

/-- An emission of at most `k` writes, when `k` covers it: it appends all of `x` and has succeeded, or a
proper prefix of `x` and has failed (R68). -/
theorem emitWrites_spec (P : Parameters) (cap : Nat) (sink : SinkId) (hc : 1 ≤ cap) (k : Nat) : ∀ (x : Bytes) (s : State),
    x.length ≤ k →
    ∃ used, used ≤ x.length ∧
      (emitWrites P cap sink k x s = (true, s.afterWrites used sink x) ∨
        ∃ sent, sent.length < x.length ∧ sent <+: x ∧
          emitWrites P cap sink k x s = (false, s.afterWrites used sink sent)) := by
  induction k with
  | zero =>
    intro x s hx
    have : x = [] := by simpa using hx
    exact ⟨0, by simp, .inl (by simp [emitWrites, this])⟩
  | succ k ih =>
    intro x s hx
    by_cases hnil : x = []
    · exact ⟨0, by simp, .inl (by simp [emitWrites, hnil])⟩
    · have hpos : 1 ≤ x.length := List.length_pos_iff.mpr hnil
      let n := writeLength cap (s.wantedSize P x) x.length
      have h1 : 1 ≤ n := one_le_writeLength _ _ _
      have h2 : n ≤ x.length := (writeLength_le _ _ _ hc hpos).2
      rcases sinkWrite_spec P sink (x.take n) s with ⟨-, hw⟩ | ⟨-, hw⟩
      · have hlen : (x.drop n).length ≤ k := by rw [List.length_drop]; omega
        obtain ⟨used, hused, hcase⟩ := ih (x.drop n) (s.afterWrites 1 sink (x.take n)) hlen
        have hstep : emitWrites P cap sink (k + 1) x s =
            emitWrites P cap sink k (x.drop n) (s.afterWrites 1 sink (x.take n)) := by
          simp only [emitWrites, hnil, if_false]; rw [show writeLength _ _ _ = n from rfl, hw]
        rw [List.length_drop] at hused
        refine ⟨1 + used, by omega, ?_⟩
        rcases hcase with h | ⟨sent, hs1, hs2, h⟩
        · exact .inl (by rw [hstep, h, afterWrites_afterWrites, List.take_append_drop])
        · refine .inr ⟨x.take n ++ sent, ?_, ?_, ?_⟩
          · rw [List.length_drop] at hs1
            rw [List.length_append, List.length_take]; omega
          · have h := (List.prefix_append_right_inj (x.take n)).mpr hs2
            rwa [List.take_append_drop] at h
          · rw [hstep, h, afterWrites_afterWrites]
      · refine ⟨1, hpos, .inr ⟨[], hpos, List.nil_prefix, ?_⟩⟩
        simp only [emitWrites, hnil, if_false]; rw [show writeLength _ _ _ = n from rfl, hw]

theorem one_le_writeCap (P : Parameters) (u : UnitId) (x : Bytes) (hx : x ≠ []) : 1 ≤ writeCap P u x := by
  have := List.length_pos_iff.mpr hx
  cases u <;> simp only [writeCap] <;> first | omega | exact P.one_le_flateBuf

/-- `emit`: all of `x` appended and success, or a proper prefix of it and failure (R68). -/
theorem emit_spec (P : Parameters) (u : UnitId) (x : Bytes) (s : State) :
    ∃ used, used ≤ x.length ∧
      (emit P u x s = (true, s.afterWrites used (s.sink u) x) ∨
        ∃ sent, sent.length < x.length ∧ sent <+: x ∧
          emit P u x s = (false, s.afterWrites used (s.sink u) sent)) := by
  by_cases hx : x = []
  · exact ⟨0, by simp, .inl (by simp [emit, hx, emitWrites])⟩
  · exact emitWrites_spec P _ _ (one_le_writeCap P u x hx) _ x s (Nat.le_refl _)

/-- While the decided writes cover the emission and are accepted, every write of it is accepted. -/
theorem emitWrites_accepted (P : Parameters) (cap : Nat) (sink : SinkId) (hc : 1 ≤ cap) (k : Nat) :
    ∀ (x : Bytes) (s : State), x.length ≤ k → s.writesAccepted x.length →
    ∃ used, used ≤ x.length ∧ emitWrites P cap sink k x s = (true, s.afterWrites used sink x) := by
  induction k with
  | zero =>
    intro x s hx _
    have : x = [] := by simpa using hx
    exact ⟨0, by simp, by simp [emitWrites, this]⟩
  | succ k ih =>
    intro x s hx hacc
    by_cases hnil : x = []
    · exact ⟨0, by simp, by simp [emitWrites, hnil]⟩
    · have hpos : 1 ≤ x.length := List.length_pos_iff.mpr hnil
      let n := writeLength cap (s.wantedSize P x) x.length
      have h1 : 1 ≤ n := one_le_writeLength _ _ _
      have h2 : n ≤ x.length := (writeLength_le _ _ _ hc hpos).2
      obtain ⟨a, rest, ha⟩ : ∃ a rest, s.answers = a :: rest := by
        cases h : s.answers with
        | nil => have := hacc.1; rw [h] at this; simp at this; exact absurd this hnil
        | cons a rest => exact ⟨a, rest, rfl⟩
      have haccept : s.accepts P sink (x.take n) = true := by
        have := hacc.2 a (by rw [ha]; exact List.mem_take_iff_getElem.mpr ⟨0, by simp; omega, rfl⟩)
        simp [State.accepts, ha, this]
      rcases sinkWrite_spec P sink (x.take n) s with ⟨-, hw⟩ | ⟨hf, -⟩
      · have hlen : (x.drop n).length ≤ k := by rw [List.length_drop]; omega
        have hacc' : (s.afterWrites 1 sink (x.take n)).writesAccepted (x.drop n).length := by
          have hl := hacc.1
          refine ⟨by simp [State.afterWrites]; omega, fun b hb => hacc.2 b ?_⟩
          simp only [State.afterWrites, List.length_drop] at hb
          rw [List.mem_take_iff_getElem] at hb ⊢
          obtain ⟨i, hi, hb⟩ := hb
          simp only [List.length_drop, List.getElem_drop] at hi hb
          exact ⟨1 + i, by omega, hb⟩
        obtain ⟨used, hused, h⟩ := ih (x.drop n) _ hlen hacc'
        rw [List.length_drop] at hused
        refine ⟨1 + used, by omega, ?_⟩
        simp only [emitWrites, hnil, if_false]
        rw [show writeLength _ _ _ = n from rfl, hw]
        simp only
        rw [h, afterWrites_afterWrites, List.take_append_drop]
      · rw [haccept] at hf; cases hf

theorem emit_accepted (P : Parameters) (u : UnitId) (x : Bytes) (s : State) (h : s.writesAccepted x.length) :
    ∃ used, used ≤ x.length ∧ emit P u x s = (true, s.afterWrites used (s.sink u) x) := by
  by_cases hx : x = []
  · exact ⟨0, by simp, by simp [emit, hx, emitWrites]⟩
  · exact emitWrites_accepted P _ _ (one_le_writeCap P u x hx) _ x s (Nat.le_refl _) h

/-- What accepted writes followed by a refused one make of an emission: they carry all of `x` and the refused
one is not reached, or the emission has failed with what they carried (R67, R68). -/
theorem emitWrites_refused (P : Parameters) (cap : Nat) (sink : SinkId) (n : Nat)
    (rest : List WriteAnswer) (ws : List WriteAnswer) : ∀ (k : Nat) (x : Bytes) (s : State), x.length ≤ k →
    s.answers = ws ++ ⟨n, false⟩ :: rest → (∀ a ∈ ws, a.accepts = true) →
    (carried cap ws x.length < x.length ∧
      emitWrites P cap sink k x s =
        (false, s.afterWrites (ws.length + 1) sink (x.take (carried cap ws x.length)))) ∨
    (¬ carried cap ws x.length < x.length ∧
      ∃ used, used ≤ ws.length ∧ emitWrites P cap sink k x s = (true, s.afterWrites used sink x)) := by
  induction ws with
  | nil =>
    intro k x s hk hans _
    by_cases hx : x = []
    · refine .inr ⟨by simp [hx], 0, Nat.le_refl _, ?_⟩
      cases k <;> simp [emitWrites, hx]
    · have hpos := List.length_pos_iff.mpr hx
      obtain ⟨k, rfl⟩ : ∃ j, k = j + 1 := ⟨k - 1, by omega⟩
      refine .inl ⟨hpos, ?_⟩
      simp [emitWrites, hx, sinkWrite, State.accepts, hans, State.afterWrites, carried]
  | cons a ws ih =>
    intro k x s hk hans hacc
    by_cases hx : x = []
    · refine .inr ⟨by simp [hx, carried], 0, Nat.zero_le _, ?_⟩
      cases k <;> simp [emitWrites, hx]
    · have hpos := List.length_pos_iff.mpr hx
      obtain ⟨k, rfl⟩ : ∃ j, k = j + 1 := ⟨k - 1, by omega⟩
      let m := max 1 (min a.size (min cap x.length))
      have hm1 : 1 ≤ m := by omega
      have hm2 : m ≤ x.length := by omega
      have ha : a.accepts = true := hacc a (by simp)
      have hw : sinkWrite P sink (x.take m) s = (true, s.afterWrites 1 sink (x.take m)) := by
        simp [sinkWrite, State.accepts, hans, ha, State.afterWrites]
      have hstep : emitWrites P cap sink (k + 1) x s =
          emitWrites P cap sink k (x.drop m) (s.afterWrites 1 sink (x.take m)) := by
        have hn : writeLength cap (s.wantedSize P x) x.length = m := by
          simp [writeLength, State.wantedSize, hans, m]
        simp only [emitWrites, hx, if_false, hn, hw]
      have hcar : carried cap (a :: ws) x.length = m + carried cap ws (x.drop m).length := by
        simp [carried, hx, m]
      have hlen : (x.drop m).length = x.length - m := List.length_drop
      rcases ih k (x.drop m) (s.afterWrites 1 sink (x.take m)) (by omega)
          (by simp [State.afterWrites, hans]) (fun b hb => hacc b (by simp [hb])) with ⟨h1, h2⟩ | ⟨h1, used, hu, h2⟩
      · refine .inl ⟨by omega, ?_⟩
        rw [hstep, h2, hcar, afterWrites_afterWrites, List.take_add, List.length_cons]
        simp only [Nat.add_comm, Nat.add_left_comm]
      · refine .inr ⟨by omega, 1 + used, by simp; omega, ?_⟩
        rw [hstep, h2, afterWrites_afterWrites, List.take_append_drop]

/-- `emit` under accepted writes followed by a refused one. -/
theorem emit_refused (P : Parameters) (u : UnitId) (x : Bytes) (s : State) {n : Nat}
    {ws rest : List WriteAnswer} (hans : s.answers = ws ++ ⟨n, false⟩ :: rest)
    (hacc : ∀ a ∈ ws, a.accepts = true) :
    (carried (writeCap P u x) ws x.length < x.length ∧
      emit P u x s =
        (false, s.afterWrites (ws.length + 1) (s.sink u) (x.take (carried (writeCap P u x) ws x.length)))) ∨
    (¬ carried (writeCap P u x) ws x.length < x.length ∧
      ∃ used, used ≤ ws.length ∧ emit P u x s = (true, s.afterWrites used (s.sink u) x)) :=
  emitWrites_refused P _ _ n rest ws _ x s (Nat.le_refl _) hans hacc

/-! ## The commands -/

/-- `BEGIN_ENCODE`: three outcomes (R343, R344 a). -/
theorem beginEncode_cases (u : UnitId) (k : SinkId) (init : State → State) (s : State) :
    (s.active u = true ∧ beginEncode u k init s = respond .invalidState [] s) ∨
    (s.active u = false ∧ k = 0 ∧ beginEncode u k init s = respond .invalidHandle [] s) ∨
    (s.active u = false ∧ k ≠ 0 ∧ beginEncode u k init s = returnOk (init (s.setSession u ⟨true, k⟩))) := by
  unfold beginEncode isNullSink
  cases h : s.active u
  · by_cases hk : k = 0
    · exact .inr (.inl ⟨rfl, hk, by simp [hk]⟩)
    · exact .inr (.inr ⟨rfl, hk, by simp; exact fun hz => absurd hz hk⟩)
  · exact .inl ⟨rfl, by simp⟩

/-- The end of an encode command that emits `x`: all of it and `OK`, or a proper prefix and `SinkFailure` with
the session closed (R68, R352, R354). -/
theorem emitThen_cases (P : Parameters) (u : UnitId) (x : Bytes) (after : State → State) (s : State) :
    ∃ used, used ≤ x.length ∧
      (emitThen P u x after s = returnOk (after (s.afterWrites used (s.sink u) x)) ∨
        ∃ sent, sent.length < x.length ∧ sent <+: x ∧ emitThen P u x after s =
          respond .sinkFailure [] (closeSession u P.zInit (s.afterWrites used (s.sink u) sent))) := by
  obtain ⟨used, hu, h | ⟨sent, h1, h2, h⟩⟩ := emit_spec P u x s
  · exact ⟨used, hu, .inl (by simp [emitThen, h])⟩
  · exact ⟨used, hu, .inr ⟨sent, h1, h2, by simp [emitThen, h]⟩⟩

/-- With every write accepted, the emission is whole and the command returns `OK`. -/
theorem emitThen_accepted (P : Parameters) (u : UnitId) (x : Bytes) (after : State → State) (s : State)
    (h : s.writesAccepted x.length) :
    ∃ used, used ≤ x.length ∧ emitThen P u x after s = returnOk (after (s.afterWrites used (s.sink u) x)) := by
  obtain ⟨used, hu, h⟩ := emit_accepted P u x s h
  exact ⟨used, hu, by simp [emitThen, h]⟩

/-- `ENCODE_BLOCK`: three outcomes (R343, R344 b). -/
theorem encodeBlock_cases (P : Parameters) (u : UnitId) (input : Option Bytes) (feed : Bytes → State → Bytes × State)
    (s : State) :
    (s.active u = false ∧ encodeBlock P u input feed s = respond .invalidState [] s) ∨
    (s.active u = true ∧ input = none ∧
      encodeBlock P u input feed s = respond .invalidHandle [] (closeSession u P.zInit s)) ∨
    (s.active u = true ∧ ∃ bytes, input = some bytes ∧
      encodeBlock P u input feed s = emitThen P u (feed bytes s).1 id (feed bytes s).2) := by
  unfold encodeBlock
  cases h : s.active u
  · exact .inl ⟨rfl, by simp⟩
  · cases input with
    | none => exact .inr (.inl ⟨rfl, rfl, by simp⟩)
    | some bytes => exact .inr (.inr ⟨rfl, bytes, rfl, by simp⟩)

/-- `END_ENCODE`: two outcomes (R343). -/
theorem endEncode_cases (P : Parameters) (u : UnitId) (tail : State → Bytes) (s : State) :
    (s.active u = false ∧ endEncode P u tail s = respond .invalidState [] s) ∨
    (s.active u = true ∧ endEncode P u tail s = emitThen P u (tail s) (closeSession u P.zInit) s) := by
  unfold endEncode
  cases h : s.active u
  · exact .inl ⟨rfl, by simp⟩
  · exact .inr ⟨rfl, by simp⟩

/-- The end of a decode whose loop has ended: nothing of the state changes but the result and the transient
registers (R62, R77, R350). -/
theorem deliver_cases {r : Progress} {s : State} {o : Host.Outcome State Fault Refusal}
    (h : deliver r s = o) :
    (∃ w, r = .done w ∧ o = .next (returnOut w.out s)) ∨
    (∃ e, r = .raised e ∧ o = .next (respond e [] { s with work := .idle })) ∨
    (∃ w, r = .running w ∧ o = .fault .streamBudget) := by
  subst h
  cases r with
  | done w => exact .inl ⟨w, rfl, rfl⟩
  | raised e => exact .inr (.inl ⟨e, rfl, rfl⟩)
  | running w => exact .inr (.inr ⟨w, rfl, rfl⟩)

/-- A stream symbol always gives a next state: the decode goes on, or ends as a decode command does. -/
theorem onWork_cases (f : Work → Progress) (s : State) :
    (∃ w, f s.work = .running w ∧ onWork f s = .next { s with work := w }) ∨
    (∃ w, f s.work = .done w ∧ onWork f s = .next (returnOut w.out s)) ∨
    (∃ e, f s.work = .raised e ∧ onWork f s = .next (respond e [] { s with work := .idle })) := by
  unfold onWork
  cases h : f s.work with
  | running w => exact .inl ⟨w, rfl, rfl⟩
  | done w => exact .inr (.inl ⟨w, rfl, rfl⟩)
  | raised e => exact .inr (.inr ⟨e, rfl, rfl⟩)

end Sys2Proof.Machine
end

