-- ==== Sys2Proof/Laws/Parametric.lean ====
section
/-! SUPPORT. The machine that the host runs is the machine of Machine/Parametric.lean at the parameters that
00_scope.md R13 gives. -/

namespace Sys2Proof.Machine

/-- `exec` is the parametric dispatch at the values of R13. -/
theorem execWith_parameters (i : Instr) (s : State) : execWith Config.parameters i s = exec i s := by
  cases i <;> rfl

/-- `step` is the parametric step at the values of R13. -/
theorem stepWith_parameters : stepWith Config.parameters = step := by
  funext s
  exact congrArg (stepBy Config.parameters · s) (funext fun i => funext fun s => execWith_parameters i s)

/-- The host's machine is the parametric machine at the values of R13. -/
theorem coreWith_parameters : coreWith Config.parameters = Sys2Proof.core := by
  simp only [coreWith, stepWith_parameters, Sys2Proof.core, State.reset]

end Sys2Proof.Machine
end

