-- ==== Sys2Proof/Laws/Params.lean ====
section
/-! SUPPORT. The integers of the parameter port (00_scope.md R13, 10_state.md R36): what reading `PARAM_WIDTH` bits
in two's complement gives, for any width. -/

namespace Sys2Proof

/-- A power of two as an integer is positive. -/
theorem two_pow_pos (width : Nat) : 0 < (2 ^ width : Int) := Int.pow_pos (by decide)

/-- What an integer of a width is. -/
theorem fitsWidth_iff {width : Nat} {v : Int} :
    fitsWidth width v = true ↔ -(2 ^ width : Int) ≤ 2 * v ∧ 2 * v < (2 ^ width : Int) := by
  simp [fitsWidth]

/-- What is read from bits has their width. -/
theorem twosComplement_fits (width : Nat) (v : Int) : fitsWidth width (twosComplement width v) = true := by
  have hp := two_pow_pos width
  have h0 := Int.emod_nonneg v (Int.ne_of_gt hp)
  have h1 := Int.emod_lt_of_pos v hp
  rw [fitsWidth_iff, twosComplement]
  split <;> omega

/-- What is read from bits has those bits. -/
theorem twosComplement_emod (width : Nat) (v : Int) : twosComplement width v % 2 ^ width = v % 2 ^ width := by
  unfold twosComplement
  split
  · exact Int.emod_emod_of_dvd v (Int.dvd_refl _)
  · rw [Int.sub_emod_right, Int.emod_emod_of_dvd v (Int.dvd_refl _)]

/-- An integer of a width is read from its own bits. -/
theorem twosComplement_of_fits {width : Nat} {v : Int} (h : fitsWidth width v = true) :
    twosComplement width v = v := by
  have hp := two_pow_pos width
  obtain ⟨hl, hu⟩ := fitsWidth_iff.mp h
  unfold twosComplement
  by_cases hv : 0 ≤ v
  · rw [Int.emod_eq_of_lt hv (by omega), if_pos hu]
  · have : v % 2 ^ width = v + 2 ^ width := by
      rw [← Int.add_emod_right, Int.emod_eq_of_lt (by omega) (by omega)]
    rw [this, if_neg (by omega)]
    omega

/-- Integers with the same bits are read alike. -/
theorem twosComplement_congr {width : Nat} {v v' : Int} (h : v % 2 ^ width = v' % 2 ^ width) :
    twosComplement width v = twosComplement width v' := by
  simp only [twosComplement, h]

/-- The bits of an integer are below 2^width, and are congruent to it. -/
theorem paramBits_spec (width : Nat) (v : Int) :
    paramBits width v < 2 ^ width ∧ (paramBits width v : Int) = v % 2 ^ width := by
  have hp := two_pow_pos width
  have h0 := Int.emod_nonneg v (Int.ne_of_gt hp)
  have h1 := Int.emod_lt_of_pos v hp
  refine ⟨?_, Int.toNat_of_nonneg h0⟩
  have : (paramBits width v : Int) < ((2 ^ width : Nat) : Int) := by
    rw [paramBits, Int.toNat_of_nonneg h0]; simpa using h1
  exact Int.ofNat_lt.mp this

/-- Reading the bits of an integer of the width gives it back. -/
theorem twosComplement_paramBits {width : Nat} {v : Int} (h : fitsWidth width v = true) :
    twosComplement width (paramBits width v) = v := by
  refine (twosComplement_congr ?_).trans (twosComplement_of_fits h)
  rw [(paramBits_spec width v).2, Int.emod_emod_of_dvd v (Int.dvd_refl _)]

/-- The bits of what is read from a number below 2^width are that number. -/
theorem paramBits_twosComplement {width n : Nat} (h : n < 2 ^ width) :
    paramBits width (twosComplement width n) = n := by
  have h' : (n : Int) < 2 ^ width := by
    have := Int.ofNat_lt.mpr h; simpa using this
  rw [paramBits, twosComplement_emod, Int.emod_eq_of_lt (Int.natCast_nonneg n) h']
  exact Int.toNat_natCast n

end Sys2Proof
end

