-- ==== Sys2Proof/Laws/PerInstr.lean ====
section
/-! SUPPORT. The per-instruction family `WordFits`: the words an instruction encodes to fit the format they
are in (30_encoding.md R91 to R107). -/

namespace Sys2Proof.Laws.WordFits

/-- The first value that no symbol of a format has: the format's width, or the size of its alphabet. -/
def valueBound : Format → Nat
  | .cmd => 0
  | .hexChar | .a85Char | .rleCtl | .pngRow => 256
  | .lzwCode => 4096
  | .predictor | .zlibTrl => 4294967296
  | .zlibHdr => 65536
  | .deflateBlk => 8
  | .deflateCl => 19
  | .deflateLitLen => 288
  | .deflateDist => 32

/-- Whether words are of a format's kind and in its range. -/
def fits : Format × Encoded → Bool
  | (f, .command _) => f == .cmd
  | (f, .symbol v) => v < valueBound f
  | (f, .noByte) => f == .hexChar || f == .a85Char

/-- A well-formed instruction's words fit their format. -/
def Statement (i : Instr) : Prop := i.wf = true → fits (encode i) = true

theorem hexBeginEncode (sink : SinkId) : Statement (.hexBeginEncode sink) := fun _ => rfl

theorem hexEncodeBlock (input : Option Bytes) : Statement (.hexEncodeBlock input) := fun _ => rfl

theorem hexEndEncode : Statement .hexEndEncode := fun _ => rfl

theorem hexDecode (input : Option Bytes) (params : Option Params) : Statement (.hexDecode input params) := fun _ => rfl

theorem a85BeginEncode (sink : SinkId) : Statement (.a85BeginEncode sink) := fun _ => rfl

theorem a85EncodeBlock (input : Option Bytes) : Statement (.a85EncodeBlock input) := fun _ => rfl

theorem a85EndEncode : Statement .a85EndEncode := fun _ => rfl

theorem a85Decode (input : Option Bytes) (params : Option Params) : Statement (.a85Decode input params) := fun _ => rfl

theorem flateBeginEncode (sink : SinkId) : Statement (.flateBeginEncode sink) := fun _ => rfl

theorem flateEncodeBlock (input : Option Bytes) : Statement (.flateEncodeBlock input) := fun _ => rfl

theorem flateEndEncode : Statement .flateEndEncode := fun _ => rfl

theorem flateDecode (input : Option Bytes) (params : Option Params) : Statement (.flateDecode input params) := fun _ => rfl

theorem rleBeginEncode (sink : SinkId) : Statement (.rleBeginEncode sink) := fun _ => rfl

theorem rleEncodeBlock (input : Option Bytes) : Statement (.rleEncodeBlock input) := fun _ => rfl

theorem rleEndEncode : Statement .rleEndEncode := fun _ => rfl

theorem rleDecode (input : Option Bytes) (params : Option Params) : Statement (.rleDecode input params) := fun _ => rfl

theorem lzwBeginEncode (sink : SinkId) : Statement (.lzwBeginEncode sink) := fun _ => rfl

theorem lzwEncodeBlock (input : Option Bytes) : Statement (.lzwEncodeBlock input) := fun _ => rfl

theorem lzwEndEncode : Statement .lzwEndEncode := fun _ => rfl

theorem lzwDecode (input : Option Bytes) (params : Option Params) : Statement (.lzwDecode input params) := fun _ => rfl

theorem reservedCommand (cmd : Byte) : Statement (.reservedCommand cmd) := fun _ => rfl

theorem hexWhitespace (c : Byte) : Statement (.hexWhitespace c) :=
  fun _ => decide_eq_true (show c.toNat < 256 by have := c.isLt; omega)

theorem hexDigit09 (v : BitVec 4) : Statement (.hexDigit09 v) :=
  fun _ => decide_eq_true (show 0x30 + v.toNat < 256 by have := v.isLt; omega)

theorem hexDigitUpper (v : BitVec 3) : Statement (.hexDigitUpper v) :=
  fun _ => decide_eq_true (show 0x40 + v.toNat < 256 by have := v.isLt; omega)

theorem hexDigitLower (v : BitVec 3) : Statement (.hexDigitLower v) :=
  fun _ => decide_eq_true (show 0x60 + v.toNat < 256 by have := v.isLt; omega)

theorem hexIllegal (c : Byte) : Statement (.hexIllegal c) :=
  fun _ => decide_eq_true (show c.toNat < 256 by have := c.isLt; omega)

theorem hexEndOfInput : Statement .hexEndOfInput := fun _ => rfl

theorem a85Skip (c : Byte) : Statement (.a85Skip c) :=
  fun _ => decide_eq_true (show c.toNat < 256 by have := c.isLt; omega)

theorem a85Digit (c : Byte) : Statement (.a85Digit c) :=
  fun _ => decide_eq_true (show c.toNat < 256 by have := c.isLt; omega)

theorem a85Z : Statement .a85Z := fun _ => rfl

theorem a85Terminator : Statement .a85Terminator := fun _ => rfl

theorem a85Illegal (c : Byte) : Statement (.a85Illegal c) :=
  fun _ => decide_eq_true (show c.toNat < 256 by have := c.isLt; omega)

theorem a85EndOfData : Statement .a85EndOfData := fun _ => rfl

theorem rleLiteral (n : BitVec 7) : Statement (.rleLiteral n) :=
  fun _ => decide_eq_true (show n.toNat < 256 by have := n.isLt; omega)

theorem rleEod : Statement .rleEod := fun _ => rfl

theorem rleReplicate (n : BitVec 7) : Statement (.rleReplicate n) :=
  fun _ => decide_eq_true (show 0x80 + n.toNat < 256 by have := n.isLt; omega)

theorem lzwClear : Statement .lzwClear := fun _ => rfl

theorem lzwEod : Statement .lzwEod := fun _ => rfl

theorem lzwKnown (code : BitVec 12) : Statement (.lzwKnown code) :=
  fun _ => decide_eq_true (show code.toNat < 4096 by have := code.isLt; omega)

theorem lzwNotYetDefined (code : BitVec 12) : Statement (.lzwNotYetDefined code) :=
  fun _ => decide_eq_true (show code.toNat < 4096 by have := code.isLt; omega)

theorem lzwIllegal (code : BitVec 12) : Statement (.lzwIllegal code) :=
  fun _ => decide_eq_true (show code.toNat < 4096 by have := code.isLt; omega)

theorem predictorNone : Statement .predictorNone := fun _ => rfl

theorem predictorTiff : Statement .predictorTiff := fun _ => rfl

theorem predictorPng (value : Int) : Statement (.predictorPng value) :=
  fun _ => decide_eq_true (paramBits_spec Config.paramWidth value).1

theorem predictorUndefined (value : Int) : Statement (.predictorUndefined value) :=
  fun _ => decide_eq_true (paramBits_spec Config.paramWidth value).1

theorem pngTagNone : Statement .pngTagNone := fun _ => rfl

theorem pngTagSub : Statement .pngTagSub := fun _ => rfl

theorem pngTagUp : Statement .pngTagUp := fun _ => rfl

theorem pngTagAverage : Statement .pngTagAverage := fun _ => rfl

theorem pngTagPaeth : Statement .pngTagPaeth := fun _ => rfl

theorem pngTagIllegal (tag : Byte) : Statement (.pngTagIllegal tag) :=
  fun _ => decide_eq_true (show tag.toNat < 256 by have := tag.isLt; omega)

theorem zlibHeader (cmf : Byte) (flg : Byte) : Statement (.zlibHeader cmf flg) :=
  fun _ => decide_eq_true (show cmf.toNat + 256 * flg.toNat < 65536 by have := cmf.isLt; have := flg.isLt; omega)

theorem deflateBlockStored (bfinal : Bool) : Statement (.deflateBlockStored bfinal) := fun _ => by cases bfinal <;> rfl

theorem deflateBlockFixed (bfinal : Bool) : Statement (.deflateBlockFixed bfinal) := fun _ => by cases bfinal <;> rfl

theorem deflateBlockDynamic (bfinal : Bool) : Statement (.deflateBlockDynamic bfinal) := fun _ => by cases bfinal <;> rfl

theorem deflateBlockIllegal (bfinal : Bool) : Statement (.deflateBlockIllegal bfinal) := fun _ => by cases bfinal <;> rfl

theorem deflateCodelenLiteral (len : BitVec 4) : Statement (.deflateCodelenLiteral len) :=
  fun _ => decide_eq_true (show len.toNat < 19 by have := len.isLt; omega)

theorem deflateCodelen16 : Statement .deflateCodelen16 := fun _ => rfl

theorem deflateCodelen17 : Statement .deflateCodelen17 := fun _ => rfl

theorem deflateCodelen18 : Statement .deflateCodelen18 := fun _ => rfl

theorem deflateSymLiteral (b : Byte) : Statement (.deflateSymLiteral b) :=
  fun _ => decide_eq_true (show b.toNat < 288 by have := b.isLt; omega)

theorem deflateSymEndOfBlock : Statement .deflateSymEndOfBlock := fun _ => rfl

theorem deflateSymLength (sym : BitVec 9) : Statement (.deflateSymLength sym) := by
  intro h
  simp only [Instr.wf, Bool.and_eq_true, decide_eq_true_eq] at h
  exact decide_eq_true (show sym.toNat < 288 by omega)

theorem deflateSymDistance (sym : BitVec 5) : Statement (.deflateSymDistance sym) := by
  intro h
  simp only [Instr.wf, decide_eq_true_eq] at h
  exact decide_eq_true (show sym.toNat < 32 by omega)

theorem deflateSymIllegal (sym : BitVec 9) : Statement (.deflateSymIllegal sym) := by
  intro h
  simp only [Instr.wf, Bool.or_eq_true, beq_iff_eq] at h
  by_cases hs : 286 ≤ sym.toNat
  · simp only [encode, hs, if_true, fits]
    exact decide_eq_true (show sym.toNat < 288 by omega)
  · simp only [encode, hs, if_false, fits]
    exact decide_eq_true (show sym.toNat < 32 by omega)

theorem zlibTrailer (adler : BitVec 32) : Statement (.zlibTrailer adler) :=
  fun _ => decide_eq_true (show adler.toNat / 16777216 + 256 * (adler.toNat / 65536 % 256)
      + 65536 * (adler.toNat / 256 % 256) + 16777216 * (adler.toNat % 256) < 4294967296 by have := adler.isLt; omega)

end Sys2Proof.Laws.WordFits
end

