-- ==== Sys2Proof/Laws/Step.lean ====
section
/-! SUPPORT. What one step can do (30_encoding.md R117, 70_reset_and_hazards.md R380, R391), and what the
meaning of an instruction can do. -/

namespace Sys2Proof.Machine

/-- A symbol of a stream language: its meaning is its effect on the transient registers. A command or the
reserved command is none. -/
def isStreamSymbol : Instr → Bool
  | .hexBeginEncode _ | .hexEncodeBlock _ | .hexEndEncode | .hexDecode _ _ => false
  | .a85BeginEncode _ | .a85EncodeBlock _ | .a85EndEncode | .a85Decode _ _ => false
  | .flateBeginEncode _ | .flateEncodeBlock _ | .flateEndEncode | .flateDecode _ _ => false
  | .rleBeginEncode _ | .rleEncodeBlock _ | .rleEndEncode | .rleDecode _ _ => false
  | .lzwBeginEncode _ | .lzwEncodeBlock _ | .lzwEndEncode | .lzwDecode _ _ => false
  | .reservedCommand _ => false
  | .hexWhitespace _ | .hexDigit09 _ | .hexDigitUpper _ | .hexDigitLower _ | .hexIllegal _ => true
  | .hexEndOfInput | .a85Skip _ | .a85Digit _ | .a85Z | .a85Terminator | .a85Illegal _ => true
  | .a85EndOfData | .rleLiteral _ | .rleEod | .rleReplicate _ | .lzwClear | .lzwEod => true
  | .lzwKnown _ | .lzwNotYetDefined _ | .lzwIllegal _ | .predictorNone | .predictorTiff => true
  | .predictorPng _ | .predictorUndefined _ | .pngTagNone | .pngTagSub | .pngTagUp => true
  | .pngTagAverage | .pngTagPaeth | .pngTagIllegal _ | .zlibHeader _ _ => true
  | .deflateBlockStored _ | .deflateBlockFixed _ | .deflateBlockDynamic _ => true
  | .deflateBlockIllegal _ | .deflateCodelenLiteral _ | .deflateCodelen16 => true
  | .deflateCodelen17 | .deflateCodelen18 | .deflateSymLiteral _ | .deflateSymEndOfBlock => true
  | .deflateSymLength _ | .deflateSymDistance _ | .deflateSymIllegal _ | .zlibTrailer _ => true

/-- The meaning of a symbol is its effect on the transient registers, run on the state, with any parameters. -/
theorem execWith_symbol (P : Parameters) {i : Instr} (h : isStreamSymbol i = true) (s : State) :
    execWith P i s = onWork (runSymbol i · P.toStreamParameters) s := by
  cases i <;> first | rfl | cases h

/-- The meaning of a symbol is its effect on the transient registers, run on the state. -/
theorem exec_symbol {i : Instr} (h : isStreamSymbol i = true) (s : State) :
    exec i s = onWork (runSymbol i ·) s := by
  cases i <;> first | rfl | cases h

/-- Every symbol of a stream is a level 2 instruction (R5): `fetch` gives no command. -/
theorem isSymbol_of_fetch {w w' : Work} {i : Instr} {P : StreamParameters} (h : fetch w P = .symbol i w') :
    isStreamSymbol i = true := by
  have hhex : ∀ c, isStreamSymbol (decodeHexChar c P) = true := by
    intro c; unfold decodeHexChar; (repeat' split) <;> rfl
  have ha85 : ∀ c, isStreamSymbol (decodeA85Char c P) = true := by
    intro c; unfold decodeA85Char; (repeat' split) <;> rfl
  have hrle : ∀ c, isStreamSymbol (decodeRleControl c) = true := by
    intro c; unfold decodeRleControl; (repeat' split) <;> rfl
  have hlzw : ∀ n b c, isStreamSymbol (decodeLzwCode n b c) = true := by
    intro n b c; unfold decodeLzwCode; (repeat' split) <;> rfl
  have hpred : ∀ v, isStreamSymbol (decodePredictor v) = true := by
    intro v; unfold decodePredictor; (repeat' split) <;> rfl
  have hpng : ∀ t, isStreamSymbol (decodePngTag t) = true := by
    intro t; unfold decodePngTag; split <;> rfl
  have hblk : ∀ b n, isStreamSymbol (decodeBlockHeader b n) = true := by
    intro b n; unfold decodeBlockHeader; split <;> rfl
  have hcl : ∀ n j, decodeCodelen n = some j → isStreamSymbol j = true := by
    intro n j hj; unfold decodeCodelen at hj; split at hj
    · cases hj; rfl
    · split at hj <;> cases hj <;> rfl
  have hlit : ∀ n j, decodeLitLen n = some j → isStreamSymbol j = true := by
    intro n j hj; unfold decodeLitLen at hj; (repeat' split at hj) <;> cases hj <;> rfl
  have hdist : ∀ n j, decodeDistance n = some j → isStreamSymbol j = true := by
    intro n j hj; unfold decodeDistance at hj; (repeat' split at hj) <;> cases hj <;> rfl
  have hsym : ∀ (d : Nat → Option Instr) r, (∀ n j, d n = some j → isStreamSymbol j = true) →
      fetchedSymbol w d r = .symbol i w' → isStreamSymbol i = true := by
    intro d r hd hr
    unfold fetchedSymbol at hr
    split at hr
    · cases hr
    · split at hr
      · cases hr
      · rename_i j hj; cases hr; exact hd _ _ hj
  unfold fetch at h
  split at h
  case h_1 => cases h
  case h_2 => split at h <;> cases h <;> first | rfl | exact hhex _
  case h_3 => split at h <;> cases h <;> first | rfl | exact ha85 _
  case h_4 => cases h; rfl
  case h_5 => split at h <;> cases h; exact hrle _
  case h_6 => split at h <;> cases h; exact hlzw _ _ _
  case h_7 => split at h <;> cases h; rfl
  case h_8 => split at h <;> cases h; exact hblk _ _
  case h_9 => exact hsym _ _ hcl h
  case h_10 => exact hsym _ _ hlit h
  case h_11 => exact hsym _ _ hdist h
  case h_12 => split at h <;> cases h; rfl
  case h_13 => cases h; exact hpred _
  case h_14 => split at h <;> cases h; exact hpng _

/-- Between commands a step, with any parameters, idles, applies `RESET`, or runs the next command whole. -/
theorem stepWith_idle (P : Parameters) {s : State} (h : s.work.phase = .idle) :
    (s.port = [] ∧ stepWith P s = .next s) ∨
    (∃ rest, s.port = .reset :: rest ∧ stepWith P s = .next (resetBlock { s with port := rest } P)) ∨
    (∃ c rest, s.port = .command c :: rest ∧
      stepWith P s = execWith P (decodeCommand c P.toStreamParameters) { s with port := rest }) := by
  unfold stepWith stepBy
  rw [if_pos h]
  cases hp : s.port with
  | nil => exact .inl ⟨rfl, rfl⟩
  | cons e rest =>
    cases e with
    | command c => exact .inr (.inr ⟨c, rest, rfl, rfl⟩)
    | reset => exact .inr (.inl ⟨rest, rfl, rfl⟩)

/-- In a running decode a step, with any parameters, is one turn of the decode loop, run on the state. -/
theorem stepWith_running (P : Parameters) {s : State} (h : s.work.phase ≠ .idle) :
    stepWith P s = onWork (streamNext · P.toStreamParameters) s := by
  unfold stepWith stepBy
  rw [if_neg h]
  cases hf : fetch s.work P.toStreamParameters with
  | symbol i w =>
    simp only [execWith_symbol P (isSymbol_of_fetch hf), onWork, streamNext, hf]
    cases hr : runSymbol i w P.toStreamParameters <;> simp [returnOut, raise]
  | stop => simp only [onWork, streamNext, hf]
  | bad e => simp only [onWork, streamNext, hf]

/-- Between commands a step idles, applies `RESET`, or runs the next command whole. -/
theorem step_idle {s : State} (h : s.work.phase = .idle) :
    (s.port = [] ∧ step s = .next s) ∨
    (∃ rest, s.port = .reset :: rest ∧ step s = .next (resetBlock { s with port := rest })) ∨
    (∃ c rest, s.port = .command c :: rest ∧ step s = exec (decodeCommand c) { s with port := rest }) := by
  have := stepWith_idle Config.parameters h
  simp only [stepWith_parameters, execWith_parameters] at this
  exact this

/-- In a running decode a step is one turn of the decode loop, run on the state. -/
theorem step_running {s : State} (h : s.work.phase ≠ .idle) : step s = onWork (streamNext ·) s :=
  (congrFun stepWith_parameters s).symm.trans (stepWith_running Config.parameters h)

end Sys2Proof.Machine
end

