-- ==== Sys2Proof/Tests/Slice0.lean ====
section
/-! SUPPORT. The model's own tests: the checks of WellFormed, a word written out for every constructor, single
steps with results from the rules' own examples and from 95_test_vectors.md, and for every statement with
hypotheses a witness that they can be met together. -/

namespace Sys2Proof.Tests

open Sys2Proof Sys2Proof.Machine

/-! ## Helpers -/

/-- The state after reset with a compressor context that is a literal. -/
def base : State := { State.reset with flateZ := [] }

/-- A decode in progress. -/
def running (w : Work) : State := { base with work := w }

/-- The state with writes of `m` bytes decided, the first `n` of them accepted. -/
def accepting (n m : Nat) (s : State) : State := { s with answers := List.replicate n ⟨m, true⟩ }

/-- The next state, where there is one. -/
def nextState : Host.Outcome State Fault Refusal → Option State
  | .next t => some t
  | .fault _ | .refused _ => none

/-- Status and output of the next state. -/
def resultOf (o : Host.Outcome State Fault Refusal) : Option (Status × Bytes) :=
  (nextState o).map (fun t => (t.status, t.out))

theorem accepting_writesAccepted (n m : Nat) (s : State) : (accepting n m s).writesAccepted n := by
  refine ⟨by simp [accepting], fun a ha => ?_⟩
  have : a ∈ List.replicate n (⟨m, true⟩ : WriteAnswer) := List.mem_of_mem_take ha
  rw [List.eq_of_mem_replicate this]

/-! ## WellFormed: an ill-formed instruction for each check, refused -/

theorem test_wf_reservedCommand : Instr.wf (.reservedCommand 0x43) = false := by decide
theorem test_wf_reservedCommand_zeroField : Instr.wf (.reservedCommand 0x04) = true := by decide
theorem test_wf_hexWhitespace : Instr.wf (.hexWhitespace 0x0B) = false := by decide
theorem test_wf_hexDigit09 : Instr.wf (.hexDigit09 10) = false := by decide
theorem test_wf_hexDigitUpper : Instr.wf (.hexDigitUpper 0) = false := by decide
theorem test_wf_hexDigitLower : Instr.wf (.hexDigitLower 7) = false := by decide
theorem test_wf_hexIllegal : Instr.wf (.hexIllegal 0x66) = false := by decide
theorem test_wf_a85Skip : Instr.wf (.a85Skip 0x21) = false := by decide
theorem test_wf_a85Digit : Instr.wf (.a85Digit 0x76) = false := by decide
theorem test_wf_a85Illegal : Instr.wf (.a85Illegal 0x7A) = false := by decide
theorem test_wf_rleReplicate : Instr.wf (.rleReplicate 0) = false := by decide
theorem test_wf_lzwKnown : Instr.wf (.lzwKnown 257) = false := by decide
theorem test_wf_lzwNotYetDefined : Instr.wf (.lzwNotYetDefined 257) = false := by decide
theorem test_wf_lzwIllegal : Instr.wf (.lzwIllegal 65) = false := by decide
theorem test_wf_predictorPng : Instr.wf (.predictorPng 9) = false := by decide
theorem test_wf_predictorPng_width : Instr.wf (.predictorPng 0x80000000) = false := by decide
theorem test_wf_params_width :
    Instr.wf (.flateDecode none (some ⟨some 12, none, none, some 0x80000000, none⟩)) = false := by decide
theorem test_wf_predictorUndefined : Instr.wf (.predictorUndefined 2) = false := by decide
theorem test_wf_pngTagIllegal : Instr.wf (.pngTagIllegal 4) = false := by decide
theorem test_wf_deflateSymLength : Instr.wf (.deflateSymLength 286) = false := by decide
theorem test_wf_deflateSymDistance : Instr.wf (.deflateSymDistance 30) = false := by decide
theorem test_wf_deflateSymIllegal : Instr.wf (.deflateSymIllegal 285) = false := by decide

/-! ## Decode: a word of every constructor, written out from its encoding -/

/-- R91, R94: unit 0000, 0001, 0010 in bits 7:4, zero in bits 3:2, the operation in bits 1:0. -/
theorem test_decode_streaming_commands :
    decodeCommand ⟨0b00000000, 7, none, none⟩ = .hexBeginEncode 7 ∧
    decodeCommand ⟨0b00000001, 0, some [1], none⟩ = .hexEncodeBlock (some [1]) ∧
    decodeCommand ⟨0b00000010, 0, none, none⟩ = .hexEndEncode ∧
    decodeCommand ⟨0b00000011, 0, some [], none⟩ = .hexDecode (some []) none ∧
    decodeCommand ⟨0b00010000, 7, none, none⟩ = .a85BeginEncode 7 ∧
    decodeCommand ⟨0b00010001, 0, some [1], none⟩ = .a85EncodeBlock (some [1]) ∧
    decodeCommand ⟨0b00010010, 0, none, none⟩ = .a85EndEncode ∧
    decodeCommand ⟨0b00010011, 0, some [], none⟩ = .a85Decode (some []) none ∧
    decodeCommand ⟨0b00100000, 7, none, none⟩ = .flateBeginEncode 7 ∧
    decodeCommand ⟨0b00100001, 0, some [1], none⟩ = .flateEncodeBlock (some [1]) ∧
    decodeCommand ⟨0b00100010, 0, none, none⟩ = .flateEndEncode ∧
    decodeCommand ⟨0b00100011, 0, some [], none⟩ = .flateDecode (some []) none :=
  ⟨rfl, rfl, rfl, rfl, rfl, rfl, rfl, rfl, rfl, rfl, rfl, rfl⟩

/-- R91, R94, R95. -/
theorem test_decode_other_commands :
    decodeCommand ⟨0b00110000, 7, none, none⟩ = .rleBeginEncode 7 ∧
    decodeCommand ⟨0b00110001, 0, some [1], none⟩ = .rleEncodeBlock (some [1]) ∧
    decodeCommand ⟨0b00110010, 0, none, none⟩ = .rleEndEncode ∧
    decodeCommand ⟨0b00110011, 0, some [], none⟩ = .rleDecode (some []) none ∧
    decodeCommand ⟨0b01000000, 7, none, none⟩ = .lzwBeginEncode 7 ∧
    decodeCommand ⟨0b01000001, 0, some [1], none⟩ = .lzwEncodeBlock (some [1]) ∧
    decodeCommand ⟨0b01000010, 0, none, none⟩ = .lzwEndEncode ∧
    decodeCommand ⟨0b01000011, 0, some [], none⟩ = .lzwDecode (some []) none ∧
    decodeCommand ⟨0b01010000, 0, none, none⟩ = .reservedCommand 0x50 ∧
    decodeCommand ⟨0b00000111, 0, none, none⟩ = .reservedCommand 0x07 :=
  ⟨rfl, rfl, rfl, rfl, rfl, rfl, rfl, rfl, rfl, rfl⟩

/-- R96, R98: bytes of the hex and Ascii85 classes. -/
theorem test_decode_characters :
    decodeHexChar 0b00001010 = .hexWhitespace 0x0A ∧ decodeHexChar 0b00110111 = .hexDigit09 7 ∧
    decodeHexChar 0b01000001 = .hexDigitUpper 1 ∧ decodeHexChar 0b01100110 = .hexDigitLower 6 ∧
    decodeHexChar 0b01000111 = .hexIllegal 0x47 ∧ decodeHexChar 0b00111010 = .hexIllegal 0x3A ∧
    decode ⟨258, false⟩ .hexChar .noByte = .ok .hexEndOfInput ∧
    decodeA85Char 0b01111111 = .a85Skip 0x7F ∧ decodeA85Char 0b00100001 = .a85Digit 0x21 ∧
    decodeA85Char 0b01111010 = .a85Z ∧ decodeA85Char 0b01111110 = .a85Terminator ∧
    decodeA85Char 0b01110110 = .a85Illegal 0x76 ∧ decode ⟨258, false⟩ .a85Char .noByte = .ok .a85EndOfData :=
  ⟨rfl, rfl, rfl, rfl, rfl, rfl, rfl, rfl, rfl, rfl, rfl, rfl, rfl⟩

/-- R101, R102: control bytes and codes; the table has 258 entries, or 260. -/
theorem test_decode_rle_lzw :
    decodeRleControl 0b01111111 = .rleLiteral 127 ∧ decodeRleControl 0b10000000 = .rleEod ∧
    decodeRleControl 0b11111111 = .rleReplicate 127 ∧ decodeLzwCode 258 false 0b000100000000 = .lzwClear ∧
    decodeLzwCode 258 false 0b000100000001 = .lzwEod ∧ decodeLzwCode 260 true 0b000100000011 = .lzwKnown 259 ∧
    decodeLzwCode 260 true 0b000100000100 = .lzwNotYetDefined 260 ∧
    decodeLzwCode 260 false 0b000100000100 = .lzwIllegal 260 ∧
    decodeLzwCode 260 true 0b000100000101 = .lzwIllegal 261 :=
  ⟨rfl, rfl, rfl, rfl, rfl, rfl, rfl, rfl, rfl⟩

/-- R104, R105. -/
theorem test_decode_predictor :
    decodePredictor 1 = .predictorNone ∧ decodePredictor 2 = .predictorTiff ∧
    decodePredictor 10 = .predictorPng 10 ∧ decodePredictor 9 = .predictorUndefined 9 ∧
    decodePredictor (-1) = .predictorUndefined (-1) ∧ decodePngTag 0 = .pngTagNone ∧
    decodePngTag 1 = .pngTagSub ∧ decodePngTag 2 = .pngTagUp ∧ decodePngTag 3 = .pngTagAverage ∧
    decodePngTag 4 = .pngTagPaeth ∧ decodePngTag 5 = .pngTagIllegal 5 := by decide

/-- R13, R36: the words of a Predictor value at both ends of 32 bits and one bit too wide; the same word for
another `PARAM_WIDTH`. -/
theorem test_decode_paramWidth :
    decode ⟨258, false⟩ .predictor (.symbol 0x7FFFFFFF) = .ok (.predictorPng 2147483647) ∧
    decode ⟨258, false⟩ .predictor (.symbol 0x80000000) = .ok (.predictorUndefined (-2147483648)) ∧
    decode ⟨258, false⟩ .predictor (.symbol 0x100000000) = .error .outOfRange ∧
    decode ⟨258, false⟩ .predictor (.symbol 0xFFFF) { Config.stream with paramWidth := 16 } =
      .ok (.predictorUndefined (-1)) ∧
    decode ⟨258, false⟩ .predictor (.symbol 0x100000000) { Config.stream with paramWidth := 64 } =
      .ok (.predictorPng 4294967296) := ⟨rfl, rfl, rfl, rfl, rfl⟩

/-- R291, R293, R300, R302 to R307, R310. -/
theorem test_decode_deflate :
    decode ⟨258, false⟩ .zlibHdr (.symbol 0x0178) = .ok (.zlibHeader 0x78 0x01) ∧
    decodeBlockHeader true 0 = .deflateBlockStored true ∧ decodeBlockHeader false 1 = .deflateBlockFixed false ∧
    decodeBlockHeader true 2 = .deflateBlockDynamic true ∧ decodeBlockHeader true 3 = .deflateBlockIllegal true ∧
    decodeCodelen 15 = some (.deflateCodelenLiteral 15) ∧ decodeCodelen 16 = some .deflateCodelen16 ∧
    decodeCodelen 17 = some .deflateCodelen17 ∧ decodeCodelen 18 = some .deflateCodelen18 ∧
    decodeCodelen 19 = none ∧ decodeLitLen 255 = some (.deflateSymLiteral 255) ∧
    decodeLitLen 256 = some .deflateSymEndOfBlock ∧ decodeLitLen 285 = some (.deflateSymLength 285) ∧
    decodeLitLen 286 = some (.deflateSymIllegal 286) ∧ decodeLitLen 288 = none ∧
    decodeDistance 29 = some (.deflateSymDistance 29) ∧ decodeDistance 31 = some (.deflateSymIllegal 31) ∧
    decodeTrailer 0x00 0x62 0x00 0x62 = .zlibTrailer 0x00620062 :=
  ⟨rfl, rfl, rfl, rfl, rfl, rfl, rfl, rfl, rfl, rfl, rfl, rfl, rfl, rfl, rfl, rfl, rfl, rfl⟩

/-- A symbol in a format it does not fit is refused by name. -/
theorem test_decode_refuses :
    decode ⟨258, false⟩ .deflateCl (.symbol 19) = .error .outOfRange ∧
    decode ⟨258, false⟩ .hexChar (.symbol 256) = .error .outOfRange ∧
    decode ⟨258, false⟩ .cmd (.symbol 0) = .error .wrongKind ∧
    decode ⟨258, false⟩ .rleCtl .noByte = .error .wrongKind := ⟨rfl, rfl, rfl, rfl⟩

/-- The words of the opcode table (notes/assumptions/12.md). -/
theorem test_decodeTableWord :
    decodeTableWord 8 0x23 = some (.flateDecode none none) ∧ decodeTableWord 8 0x61 = some (.hexDigitLower 1) ∧
    decodeTableWord 8 0x7A = some .a85Z ∧ decodeTableWord 8 0x80 = some .rleEod ∧
    decodeTableWord 16 0x0101 = some .lzwEod ∧ decodeTableWord 16 0x9C78 = some (.zlibHeader 0x78 0x9C) ∧
    decodeTableWord 32 12 = some (.predictorPng 12) := by decide

/-- A command placed by `withFetchWord` is what the next step runs: R241 on the byte 0x30. -/
theorem test_withFetchWord_command :
    resultOf (step (base.withFetchWord 8 0x30)) = some (.unsupportedOperation, []) := by decide

/-- A symbol placed by `withFetchWord` is what the next step runs: R137 on 'a'. -/
theorem test_withFetchWord_symbol :
    (nextState (step (base.withFetchWord 8 0x61))).map (fun t => t.work.hi) = some (some 10) := by decide

/-! ## HEX -/

/-- R130. -/
theorem test_hexBeginEncode : (nextState (exec (.hexBeginEncode 1) base)).map (fun t => (t.hex, t.status)) =
    some (⟨true, 1⟩, .ok) := by decide
/-- R130: a second `BEGIN_ENCODE` leaves the first sink bound. -/
theorem test_hexBeginEncode_twice :
    (nextState (exec (.hexBeginEncode 2) { base with hex := ⟨true, 1⟩ })).map (fun t => (t.hex, t.status)) =
      some (⟨true, 1⟩, .invalidState) := by decide
/-- R131, S3: `[00 FF 0A]` emits "00FF0A", here in writes of up to 4 bytes. -/
theorem test_hexEncodeBlock : (nextState (exec (.hexEncodeBlock (some [0x00, 0xFF, 0x0A]))
    (accepting 6 4 { base with hex := ⟨true, 1⟩ }))).map (fun t => (t.sinks, t.answers.length, t.hex.active)) =
      some ([(1, [0x30, 0x30, 0x46, 0x46, 0x30, 0x41])], 4, true) := by decide
/-- R68, R352: the second write of two bytes is refused: the first stays in the sink, the session is closed. -/
theorem test_hexEncodeBlock_refused : (nextState (exec (.hexEncodeBlock (some [0x12, 0x34]))
    { base with hex := ⟨true, 1⟩, answers := [⟨2, true⟩, ⟨2, false⟩] })).map
      (fun t => (t.sinks, t.hex, t.status)) = some ([(1, [0x31, 0x32])], ⟨false, 0⟩, .sinkFailure) := by decide
/-- R133. -/
theorem test_hexEndEncode : (nextState (exec .hexEndEncode { base with hex := ⟨true, 1⟩ })).map
    (fun t => (t.hex, t.status, t.draws)) = some (⟨false, 0⟩, .ok, 0) := by decide
/-- R134, S5: "0 0 F F". -/
theorem test_hexDecode : resultOf (exec (.hexDecode (some [0x30, 0x20, 0x30, 0x20, 0x46, 0x20, 0x46]) none) base) =
    some (.ok, [0x00, 0xFF]) := by decide
/-- R139: an odd number of digits. -/
theorem test_hexDecode_odd : resultOf (exec (.hexDecode (some [0x30, 0x31, 0x32]) none) base) =
    some (.valueOutOfRange, []) := by decide
/-- R137: the low digit 'f' of a pair with high digit 4. -/
theorem test_hexDigitLower : (nextState (exec (.hexDigitLower 6) (running { hexStart [] none with hi := some 4 }))).map
    (fun t => (t.work.out, t.work.hi)) = some ([0x4F], none) := by decide
/-- R137: 'A' as a high digit. -/
theorem test_hexDigitUpper : (nextState (exec (.hexDigitUpper 1) (running (hexStart [] none)))).map
    (fun t => (t.work.out, t.work.hi)) = some ([], some 10) := by decide
/-- R137, R136. -/
theorem test_hexDigit09_whitespace :
    (nextState (exec (.hexDigit09 9) (running (hexStart [] none)))).map (fun t => t.work.hi) = some (some 9) ∧
    (nextState (exec (.hexWhitespace 0x20) (running { hexStart [] none with hi := some 9 }))).map
      (fun t => t.work.hi) = some (some 9) := by decide
/-- R138, R139. -/
theorem test_hexIllegal_end :
    resultOf (exec (.hexIllegal 0x3E) (running (hexStart [] none))) = some (.valueOutOfRange, []) ∧
    resultOf (exec .hexEndOfInput (running { hexStart [] none with out := [1] })) = some (.ok, [1]) := by decide

/-! ## A85 -/

/-- R151. -/
theorem test_a85BeginEncode :
    (nextState (exec (.a85BeginEncode 3) { base with a85Tuple := 5, a85Count := 2 })).map
      (fun t => (t.a85, t.a85Tuple, t.a85Count)) = some (⟨true, 3⟩, 0, 0) := by decide
/-- R153: "9jqo^" for `[4D 61 6E 20]`, the group completed across a command boundary. -/
theorem test_a85EncodeBlock : (nextState (exec (.a85EncodeBlock (some [0x61, 0x6E, 0x20, 0xAB]))
    (accepting 5 5 { base with a85 := ⟨true, 1⟩, a85Tuple := 0x4D000000, a85Count := 1 }))).map
      (fun t => (t.sinks, t.a85Tuple, t.a85Count)) =
      some ([(1, [0x39, 0x6A, 0x71, 0x6F, 0x5E])], 0xAB000000, 1) := by decide
/-- R154, S6: 'z' for a zero group. -/
theorem test_a85EncodeBlock_zero : (nextState (exec (.a85EncodeBlock (some [0, 0, 0, 0]))
    (accepting 1 1 { base with a85 := ⟨true, 1⟩ }))).map (fun t => t.sinks) = some [(1, [0x7A])] := by decide
/-- R156: `[00]` is "!!", never 'z'. -/
theorem test_a85EndEncode : (nextState (exec .a85EndEncode
    (accepting 2 2 { base with a85 := ⟨true, 1⟩, a85Count := 1 }))).map
      (fun t => (t.sinks, t.a85, t.a85Count)) = some ([(1, [0x21, 0x21])], ⟨false, 0⟩, 0) := by decide
/-- R169: "!<" is the byte 0x01. -/
theorem test_a85Decode : resultOf (exec (.a85Decode (some [0x21, 0x3C]) none) base) = some (.ok, [0x01]) := by
  decide
/-- R170: the largest legal group, "s8W-!", then a terminator and bytes that are not read. -/
theorem test_a85Decode_largest :
    resultOf (exec (.a85Decode (some [0x73, 0x38, 0x57, 0x2D, 0x21, 0x7E, 0x3E, 0x80]) none) base) =
      some (.ok, [0xFF, 0xFF, 0xFF, 0xFF]) := by decide
/-- R163, D15: "s8W-" and then '"' is 2^32. -/
theorem test_a85Digit_overflow : resultOf (exec (.a85Digit 0x22)
    (running { a85Start [] none with acc := 4294967295, n := 4 })) = some (.valueOutOfRange, []) := by decide
/-- R164: 'z' inside a group. -/
theorem test_a85Z : resultOf (exec .a85Z (running { a85Start [] none with n := 1 })) =
      some (.valueOutOfRange, []) ∧
    (nextState (exec .a85Z (running (a85Start [] none)))).map (fun t => t.work.out) = some [0, 0, 0, 0] := by
  decide
/-- R166: '~' must be followed by '>'. -/
theorem test_a85Terminator :
    (nextState (exec .a85Terminator (running { a85Start [0x7E, 0x3E] none with ip := 1 }))).map
      (fun t => (t.work.phase, t.work.ip)) = some (.a85End, 2) ∧
    resultOf (exec .a85Terminator (running { a85Start [0x7E, 0x20, 0x3E] none with ip := 1 })) =
      some (.valueOutOfRange, []) := by decide
/-- R162, R167. -/
theorem test_a85Skip_illegal :
    (nextState (exec (.a85Skip 0x0A) (running { a85Start [] none with n := 3 }))).map (fun t => t.work.n) =
      some 3 ∧
    resultOf (exec (.a85Illegal 0x76) (running (a85Start [] none))) = some (.valueOutOfRange, []) := by decide
/-- R168, R170: a lone digit is dropped; "uu" is above 2^32 - 1. -/
theorem test_a85EndOfData :
    resultOf (exec .a85EndOfData (running { a85Start [] none with acc := 4000000000, n := 1 })) =
      some (.ok, []) ∧
    resultOf (exec .a85EndOfData (running { a85Start [] none with acc := 4436438500, n := 2 })) =
      some (.valueOutOfRange, []) := by decide

/-! ## FLATE -/

/-- R182: the sink and the session; the fields that do not depend on the compressor. -/
theorem test_flateBeginEncode : (nextState (exec (.flateBeginEncode 3) base)).map (fun t => (t.flate, t.status)) =
    some (⟨true, 3⟩, .ok) := by decide
/-- R185, R344 b: an absent input closes the session. -/
theorem test_flateEncodeBlock_absent :
    (nextState (exec (.flateEncodeBlock none) { base with flate := ⟨true, 3⟩ })).map
      (fun t => (t.flate, t.status)) = some (⟨false, 0⟩, .invalidHandle) := by decide
/-- R187, R343. -/
theorem test_flateEndEncode_inactive : resultOf (exec .flateEndEncode base) = some (.invalidState, []) := by
  decide
/-- R320, R294: the stored stream of `[61]`. -/
theorem test_flateDecode_stored :
    resultOf (exec (.flateDecode (some [0x78, 0x01, 0x01, 0x01, 0x00, 0xFE, 0xFF, 0x61, 0x00, 0x62, 0x00, 0x62])
      none) base) = some (.ok, [0x61]) := by decide +kernel
/-- R313: the fixed block of `[61]`. -/
theorem test_flateDecode_fixed :
    resultOf (exec (.flateDecode (some [0x78, 0x9C, 0x4B, 0x04, 0x00, 0x00, 0x62, 0x00, 0x62]) none) base) =
      some (.ok, [0x61]) := by decide +kernel

/-! ## Predictor reversal -/

/-- R217, S16: two Up rows, sums modulo 256. -/
theorem test_pngTagUp : (nextState (exec .pngTagUp (running { Work.idle with
    phase := .png, ip := 5, out := [1, 2, 3],
    inf := { InflateRegs.start with infl := [2, 1, 2, 3, 2, 0xFF, 0xFF, 0xFF] },
    pred := { PredictorRegs.start with rowBytes := 3, prev := [1, 2, 3] } }))).map
      (fun t => (t.work.out, t.work.ip)) = some ([1, 2, 3, 0, 1, 2], 8) := by decide
/-- R217: the None row adds the row above. -/
theorem test_pngTagNone : (nextState (exec .pngTagNone (running { Work.idle with
    phase := .png, ip := 1, inf := { InflateRegs.start with infl := [0, 5] },
    pred := { PredictorRegs.start with rowBytes := 1, prev := [7] } }))).map (fun t => t.work.out) =
      some [12] := by decide
/-- R218: `[01 0A 01 01 FF]` gives `[0A 0B 0C 0B]`. -/
theorem test_pngTagSub : (nextState (exec .pngTagSub (running { Work.idle with
    phase := .png, ip := 1, inf := { InflateRegs.start with infl := [1, 0x0A, 1, 1, 0xFF] },
    pred := { PredictorRegs.start with rowBytes := 4 } }))).map (fun t => t.work.out) =
      some [0x0A, 0x0B, 0x0C, 0x0B] := by decide
/-- R219: prev `[0A 14 1E]`, raw `[01 01 01]` gives `[06 0E 17]`. -/
theorem test_pngTagAverage : (nextState (exec .pngTagAverage (running { Work.idle with
    phase := .png, ip := 1, inf := { InflateRegs.start with infl := [3, 1, 1, 1] },
    pred := { PredictorRegs.start with rowBytes := 3, prev := [0x0A, 0x14, 0x1E] } }))).map
      (fun t => t.work.out) = some [0x06, 0x0E, 0x17] := by decide
/-- R220: prev `[0A 14 1E]`, raw `[01 01 01]` gives `[0B 15 1F]`. -/
theorem test_pngTagPaeth : (nextState (exec .pngTagPaeth (running { Work.idle with
    phase := .png, ip := 1, inf := { InflateRegs.start with infl := [4, 1, 1, 1] },
    pred := { PredictorRegs.start with rowBytes := 3, prev := [0x0A, 0x14, 0x1E] } }))).map
      (fun t => t.work.out) = some [0x0B, 0x15, 0x1F] := by decide
/-- R221, R214, R215. -/
theorem test_predictor_faults :
    resultOf (exec (.pngTagIllegal 7) (running Work.idle)) = some (.invalidPredictor, []) ∧
    resultOf (exec .predictorTiff (running Work.idle)) = some (.unsupportedOperation, []) ∧
    resultOf (exec (.predictorUndefined 3) (running Work.idle)) = some (.invalidPredictor, []) := by decide
/-- R211, R212: a pass-through; the row width for 9 columns of 4 bits is 5. -/
theorem test_predictor_modes :
    resultOf (exec .predictorNone (running { Work.idle with
      inf := { InflateRegs.start with infl := [9, 9] } })) = some (.ok, [9, 9]) ∧
    (nextState (exec (.predictorPng 12) (running { Work.idle with
      phase := .predictor, pred := { PredictorRegs.start with columns := 9, bpc := 4 } }))).map
        (fun t => t.work.pred.rowBytes) = some 5 := by decide

/-! ## RLE -/

/-- R241. -/
theorem test_rle_encode :
    resultOf (exec (.rleBeginEncode 0) base) = some (.unsupportedOperation, []) ∧
    resultOf (exec (.rleEncodeBlock none) base) = some (.unsupportedOperation, []) ∧
    resultOf (exec .rleEndEncode base) = some (.unsupportedOperation, []) := by decide
/-- R242: the example stream. -/
theorem test_rleDecode : resultOf (exec (.rleDecode (some [0x05, 0x41, 0x42, 0x43, 0x44, 0x45, 0x46, 0xFF, 0x58,
    0x80, 0x00, 0x99]) none) base) = some (.ok, [0x41, 0x42, 0x43, 0x44, 0x45, 0x46, 0x58, 0x58]) := by decide
/-- R247. -/
theorem test_rleDecode_cut : resultOf (exec (.rleDecode (some [0x02, 0x01, 0x02]) none) base) =
    some (.valueOutOfRange, []) := by decide
/-- R244 to R246. -/
theorem test_rle_symbols :
    (nextState (exec (.rleLiteral 0) (running { rleStart [0x00, 0x80] none with ip := 1 }))).map
      (fun t => (t.work.out, t.work.ip)) = some ([0x80], 2) ∧
    (nextState (exec (.rleReplicate 126) (running { rleStart [0xFE, 0x00] none with ip := 1 }))).map
      (fun t => (t.work.out, t.work.ip)) = some ([0, 0, 0], 2) ∧
    resultOf (exec .rleEod (running { rleStart [] none with out := [0x41] })) = some (.ok, [0x41]) := by decide

/-! ## LZW -/

/-- R261. -/
theorem test_lzw_encode :
    resultOf (exec (.lzwBeginEncode 1) base) = some (.unsupportedOperation, []) ∧
    resultOf (exec (.lzwEncodeBlock (some [])) base) = some (.unsupportedOperation, []) ∧
    resultOf (exec .lzwEndEncode base) = some (.unsupportedOperation, []) := by decide
/-- R269: codes 256, 65, 258, 65, 257. -/
theorem test_lzwDecode : resultOf (exec (.lzwDecode (some [0x80, 0x10, 0x60, 0x44, 0x18, 0x08]) none) base) =
    some (.ok, [0x41, 0x41, 0x41, 0x41]) := by decide +kernel
/-- R268: codes 256, 258. -/
theorem test_lzwDecode_illegal : resultOf (exec (.lzwDecode (some [0x80, 0x40, 0xA0, 0x20]) none) base) =
    some (.valueOutOfRange, []) := by decide +kernel
/-- R271: the append that makes 511 entries widens the code to 10 bits. -/
theorem test_lzwKnown_widens : (nextState (exec (.lzwKnown 65) (running { lzwStart [] none with
    lzw := { LzwRegs.start with prev := some 66, learned := List.replicate 252 [1, 2] } }))).map
      (fun t => (t.work.lzw.codeLength, t.work.lzw.learned.getLast?, t.work.lzw.char)) =
      some (10, some [66, 65], 65) := by decide +kernel
/-- R269, R270. -/
theorem test_lzwNotYetDefined : (nextState (exec (.lzwNotYetDefined 258) (running { lzwStart [] none with
    lzw := { LzwRegs.start with prev := some 65, char := 65 } }))).map
      (fun t => (t.work.out, t.work.lzw.learned)) = some ([65, 65], [[65, 65]]) := by decide
/-- R266, R268, R274: `OUT` and `LZW.char` are untouched by a clear. -/
theorem test_lzw_symbols :
    (nextState (exec .lzwClear (running { lzwStart [] none with out := [1], lzw := { LzwRegs.start with
      codeLength := 12, prev := some 65, char := 65, learned := [[1, 2]] } }))).map
        (fun t => (t.work.out, t.work.lzw)) = some ([1], { LzwRegs.start with char := 65 }) ∧
    resultOf (exec (.lzwIllegal 300) (running (lzwStart [] none))) = some (.valueOutOfRange, []) ∧
    resultOf (exec .lzwEod (running { lzwStart [] none with out := [7] })) = some (.ok, [7]) := by decide

/-! ## zlib and DEFLATE -/

/-- R291: 78 9C is a header; 78 BB asks for a preset dictionary. -/
theorem test_zlibHeader :
    (nextState (exec (.zlibHeader 0x78 0x9C) (running (flateStart [] none)))).map (fun t => t.work.phase) =
      some .blockHeader ∧
    resultOf (exec (.zlibHeader 0x78 0xBB) (running (flateStart [] none))) =
      some (.decompressionError, []) := by decide
/-- R294: the stored block of R294's example, and a wrong NLEN. -/
theorem test_deflateBlockStored :
    (nextState (exec (.deflateBlockStored true) (running { flateStart [0x78, 0x01, 0x01, 0x01, 0x00, 0xFE, 0xFF, 0x61]
      none with inf := { InflateRegs.start with bitPos := 3 } }))).map
        (fun t => (t.work.inf.infl, t.work.inf.bitPos, t.work.phase)) = some ([0x61], 48, .trailer) ∧
    resultOf (exec (.deflateBlockStored true) (running { flateStart [0x78, 0x9C, 0x01, 0x01, 0x00, 0xFD, 0xFF, 0x61]
      none with inf := { InflateRegs.start with bitPos := 3 } })) = some (.decompressionError, []) := by decide
/-- R295: lengths 1, 2, 2 give the codes 0, 10, 11. -/
theorem test_canonicalCode : canonicalCode [1, 2, 2] = [⟨1, 0, 0⟩, ⟨2, 2, 1⟩, ⟨2, 3, 2⟩] := by decide
/-- R300: symbol 16 with no previous length, and symbol 0..15. -/
theorem test_deflateCodelen :
    resultOf (exec .deflateCodelen16 (running (flateStart [] none))) = some (.decompressionError, []) ∧
    (nextState (exec (.deflateCodelenLiteral 8) (running { flateStart [] none with
      inf := { InflateRegs.start with nLit := 257, nDist := 1 } }))).map (fun t => t.work.inf.lens) =
        some [8] := by decide
/-- R300: symbol 17 with bits(3) = 5, symbol 18 with bits(7) = 1. -/
theorem test_deflateCodelen_zeros :
    (nextState (exec .deflateCodelen17 (running { flateStart [0, 0, 5] none with
      inf := { InflateRegs.start with nLit := 257, nDist := 1 } }))).map (fun t => t.work.inf.lens.length) =
        some 8 ∧
    (nextState (exec .deflateCodelen18 (running { flateStart [0, 0, 1] none with
      inf := { InflateRegs.start with nLit := 257, nDist := 1 } }))).map
        (fun t => (t.work.inf.lens.length, t.work.inf.bitPos)) = some (12, 7) := by decide
/-- R303 to R305. -/
theorem test_deflate_symbols :
    (nextState (exec (.deflateSymLiteral 0x61) (running (flateStart [] none)))).map (fun t => t.work.inf.infl) =
      some [0x61] ∧
    (nextState (exec .deflateSymEndOfBlock (running { flateStart [] none with phase := .data }))).map
      (fun t => t.work.phase) = some .blockHeader ∧
    (nextState (exec (.deflateSymLength 284) (running (flateStart [0, 0, 31] none)))).map
      (fun t => (t.work.inf.copyLen, t.work.phase)) = some (258, .distance) := by decide
/-- R309: `(L = 8, D = 1)` appends eight copies of the last byte; a distance with no output faults. -/
theorem test_deflateSymDistance :
    (nextState (exec (.deflateSymDistance 0) (running { flateStart [] none with
      inf := { InflateRegs.start with copyLen := 8, infl := [1, 2] } }))).map (fun t => t.work.inf.infl) =
        some [1, 2, 2, 2, 2, 2, 2, 2, 2, 2] ∧
    resultOf (exec (.deflateSymDistance 0) (running (flateStart [] none))) =
      some (.decompressionError, []) := by decide
/-- R293, R307. -/
theorem test_deflate_illegal :
    resultOf (exec (.deflateBlockIllegal true) (running (flateStart [] none))) =
      some (.decompressionError, []) ∧
    resultOf (exec (.deflateSymIllegal 286) (running (flateStart [] none))) =
      some (.decompressionError, []) := by decide
/-- R310, R311: the checksum of `[61]`. -/
theorem test_zlibTrailer :
    resultOf (exec (.zlibTrailer 0x00620062) (running { flateStart [] none with
      inf := { InflateRegs.start with infl := [0x61] } })) = some (.ok, [0x61]) ∧
    resultOf (exec (.zlibTrailer 0x00620063) (running { flateStart [] none with
      inf := { InflateRegs.start with infl := [0x61] } })) = some (.decompressionError, []) := by decide
/-- R311: ten bytes 0x61. -/
theorem test_adler32 : adler32 (List.replicate 10 0x61) = 0x14E103CB := by decide +kernel

/-- R95, R345 a. -/
theorem test_reservedCommand : resultOf (exec (.reservedCommand 0xFF) base) = some (.invalidArgument, []) := by
  decide
/-- R380, R381: `RESET` closes the sessions and leaves the sinks. -/
theorem test_reset : (nextState (step { base with
    port := [.reset], a85 := ⟨true, 1⟩, a85Count := 2, sinks := [(1, [5])], status := .sinkFailure })).map
      (fun t => (t.a85, t.sinks, t.status)) = some (⟨false, 0⟩, [(1, [5])], .ok) := by decide

/-! ## Witnesses: the hypotheses of each statement can be met together, each clause at a boundary -/

/-- The words of an LZW code at the top of its range, of a replicate of 128, of an illegal symbol. -/
theorem witness_DecodeEncodeRoundTrip :
    (Instr.wf (.lzwNotYetDefined 4095) = true ∧ Instr.fits ⟨4095, true⟩ (.lzwNotYetDefined 4095) = true) ∧
    (Instr.wf (.rleReplicate 1) = true ∧ Instr.fits ⟨258, false⟩ (.rleReplicate 1) = true) ∧
    (Instr.wf (.deflateSymIllegal 31) = true ∧ Instr.fits ⟨258, false⟩ (.deflateSymIllegal 31) = true) := by
  decide

theorem witness_EncodeDecodeRoundTripForSymbols :
    decode ⟨258, false⟩ .deflateLitLen (.symbol 287) = .ok (.deflateSymIllegal 287) := rfl

theorem witness_DecodedInstructionsAreWellFormed :
    258 ≤ (⟨258, true⟩ : SymbolContext).tableSize ∧
    decode ⟨258, true⟩ .lzwCode (.symbol 258) = .ok (.lzwNotYetDefined 258) := ⟨by decide, rfl⟩

/-- A record with the least and the greatest integer of the port, and one with an integer too wide for it. -/
theorem witness_TwentyCommandBytes :
    Params.fits ⟨some 2147483647, some (-2147483648), none, none, none⟩ = true ∧
    Params.fits ⟨some 2147483648, none, none, none, none⟩ = false ∧
    some (Params.mk (some (-2147483648)) none none none none) =
      (some (Params.mk (some 2147483648) none none none none)).map (·.onPort) := by decide

/-- Either way of being reserved, at the least such byte. -/
theorem witness_ReservedCommandBytes :
    5 ≤ (CommandWord.mk 0x50 0 none none).cmd.toNat / 16 ∧
    (CommandWord.mk 0x04 0 none none).cmd.toNat / 4 % 4 ≠ 0 := by decide

/-- A command at the port, and the instruction whose words it is. -/
theorem witness_StepRunsTheIssuedCommand :
    ({ base with port := [.command ⟨0x00, 9, none, none⟩] } : State).work.phase = .idle ∧
    ({ base with port := [.command ⟨0x00, 9, none, none⟩] } : State).port =
      .command ⟨0x00, 9, none, none⟩ :: [] ∧
    Instr.wf (.hexBeginEncode 9) = true ∧
    encode (.hexBeginEncode 9) = (.cmd, .command ⟨0x00, 9, none, none⟩) := ⟨rfl, rfl, rfl, rfl⟩

/-- A symbol, a stop and an unreadable symbol; a byte of each byte language. -/
theorem witness_StepRunsTheFetchedSymbol :
    (running (hexStart [0x41] none)).work.phase = .hex ∧
    fetch (running (hexStart [0x41] none)).work =
      .symbol (.hexDigitUpper 1) { hexStart [0x41] none with ip := 1 } ∧
    fetch (running (rleStart [] none)).work = .stop ∧
    fetch (running (flateStart [0x78] none)).work = .bad .decompressionError ∧
    (running (a85Start [0x7A] none)).work.phase = .a85 ∧
    (running (a85Start [0x7A] none)).work.input[(running (a85Start [0x7A] none)).work.ip]? = some 0x7A ∧
    (running (rleStart [0x80] none)).work.phase = .rle ∧
    (running (rleStart [0x80] none)).work.input[(running (rleStart [0x80] none)).work.ip]? = some 0x80 ∧
    (running { Work.idle with phase := .png, inf := { InflateRegs.start with infl := [4] } }).work.inf.infl[0]? =
      some 4 := ⟨rfl, rfl, rfl, rfl, rfl, rfl, rfl, rfl, rfl⟩

theorem witness_IdleBlockKeepsItsState : base.work.phase = .idle ∧ base.port = [] := ⟨rfl, rfl⟩

theorem witness_ResetEventEffect :
    ({ base with port := [.reset], a85 := ⟨true, 1⟩ } : State).work.phase = .idle ∧
    ({ base with port := [.reset], a85 := ⟨true, 1⟩ } : State).port = .reset :: [] := ⟨rfl, rfl⟩

theorem witness_ResetRegisterValues :
    ({ base with port := [.reset], flate := ⟨true, 9⟩, status := .sinkFailure } : State).work.phase = .idle ∧
    ({ base with port := [.reset], flate := ⟨true, 9⟩, status := .sinkFailure } : State).port = .reset :: [] := ⟨rfl, rfl⟩

/-- An open A85 session with three bytes held back, a sink with bytes, and a step that ends it. -/
def midSession : State :=
  accepting 5 5 { base with
    a85 := ⟨true, 2⟩, a85Tuple := 0x4D616E00, a85Count := 3, sinks := [(2, [1])],
    port := [.command ⟨0x12, 0, none, none⟩] }

theorem witness_StepKeepsSessionInvariants : midSession.SessionInv ∧ ∃ t, step midSession = .next t := by
  refine ⟨⟨fun u => ?_, fun _ => ?_, rfl, rfl, fun h => absurd rfl h⟩, _, rfl⟩
  · cases u <;> simp [midSession, accepting, base, State.reset, State.resetWith, State.session, Session.coherent,
      Session.inactive]
  · exact ⟨by decide, by decide⟩

theorem witness_SinksOnlyGrowWhereBound :
    midSession.sinks.wf = true ∧ ∃ t, step midSession = .next t := ⟨rfl, _, rfl⟩

/-- An LZW decode with a learned entry, about to read a code. -/
def midLzw : State := running { lzwStart [0x80, 0x10, 0x60, 0x44] none with
  out := [65],
  lzw := { LzwRegs.start with bp := 18, prev := some 65, char := 65, learned := [[65, 65]] } }

theorem witness_StepKeepsTransientInvariants : midLzw.work.Inv ∧ ∃ t, step midLzw = .next t := by
  refine ⟨⟨fun h => ?_, ?_, ?_, ⟨rfl, ?_, ?_⟩, ⟨fun h => ?_, fun h => ?_⟩, ⟨fun h => ?_, fun _ => ⟨rfl, rfl, rfl⟩⟩,
    ⟨fun _ h => ?_, ?_⟩⟩, ?_⟩
  · cases h
  · show 18 ≤ 8 * 4; decide
  · show 0 ≤ 4 ∧ 0 + 85 ^ (5 - 0) ≤ 85 ^ 5; decide
  · intro i hi
    have : i = 0 := by simpa [midLzw, running, lzwStart] using hi
    subst this; decide
  · intro p hp
    have : p = 65 := by simpa [midLzw, running, lzwStart, eq_comm] using hp
    subst this; decide
  · cases h
  · cases h
  · cases h
  · cases h
  · show ∀ v ∈ [1, 1, 8, 1, 1], fitsWidth Config.paramWidth v = true; decide
  · rw [step_running (by decide)]
    rcases onWork_cases (streamNext ·) midLzw with ⟨_, -, h⟩ | ⟨_, -, h⟩ | ⟨_, -, h⟩ <;> exact ⟨_, h⟩

/-- An open HEX session whose writes are accepted. -/
theorem witness_HexEncodeBlockEmitsDigits :
    (accepting 2 1 { base with hex := ⟨true, 1⟩ }).hex.active = true ∧
    (accepting 2 1 { base with hex := ⟨true, 1⟩ }).writesAccepted (2 * ([0xFF] : Bytes).length) ∧
    (accepting 2 1 { base with hex := ⟨true, 1⟩ }).sinks.wf = true :=
  ⟨rfl, accepting_writesAccepted _ _ _, rfl⟩

/-- An open A85 session that holds three bytes back, the most it can. -/
def holdingThree : State :=
  accepting 5 1 { base with a85 := ⟨true, 1⟩, a85Tuple := 0x4D616E00, a85Count := 3 }

theorem holdingThree_holdsBack : holdingThree.holdsBack [0x4D, 0x61, 0x6E] :=
  ⟨by decide, by decide, by decide⟩

theorem witness_A85EncodeBlockEmitsGroups :
    holdingThree.a85.active = true ∧ holdingThree.holdsBack [0x4D, 0x61, 0x6E] ∧
    holdingThree.writesAccepted (a85Groups ([0x4D, 0x61, 0x6E] ++ [0x20])).length ∧
    holdingThree.sinks.wf = true :=
  ⟨rfl, holdingThree_holdsBack, accepting_writesAccepted _ _ _, rfl⟩

/-- An open FLATE session with as many writes accepted as a compressor's answer has bytes. -/
def flateOpen (n : Nat) : State :=
  accepting n 1 { base with flate := ⟨true, 1⟩, flateZ := Config.encoder.zInit }

theorem witness_FlateEncodeBlockFeedsCompressor :
    (flateOpen (Config.encoder.zFeed Config.encoder.zInit [1]).2.length).flate.active = true ∧
    (flateOpen (Config.encoder.zFeed Config.encoder.zInit [1]).2.length).writesAccepted
      (Config.encoder.zFeed (flateOpen 0).flateZ [1]).2.length ∧
    (flateOpen (Config.encoder.zFeed Config.encoder.zInit [1]).2.length).sinks.wf = true :=
  ⟨rfl, accepting_writesAccepted _ _ _, rfl⟩

theorem witness_EndEncodeFlushesAndCloses :
    ({ base with hex := ⟨true, 1⟩ } : State).hex.active = true ∧
    (holdingThree.a85.active = true ∧ holdingThree.holdsBack [0x4D, 0x61, 0x6E] ∧
      (accepting 4 1 holdingThree).writesAccepted (a85Partial [0x4D, 0x61, 0x6E]).length) ∧
    (flateOpen (Config.encoder.zFinish Config.encoder.zInit).length).flate.active = true ∧
    (flateOpen (Config.encoder.zFinish Config.encoder.zInit).length).writesAccepted
      (Config.encoder.zFinish (flateOpen 0).flateZ).length :=
  ⟨rfl, ⟨rfl, holdingThree_holdsBack, accepting_writesAccepted _ _ _⟩, rfl, accepting_writesAccepted _ _ _⟩

theorem witness_EncodeEmitsAllOrFails :
    ({ base with hex := ⟨true, 1⟩ } : State).hex.active = true ∧
    (holdingThree.a85.active = true ∧ holdingThree.holdsBack [0x4D, 0x61, 0x6E]) ∧
    (flateOpen 0).flate.active = true := ⟨rfl, ⟨rfl, holdingThree_holdsBack⟩, rfl⟩

/-- A stream is never empty: FlateContract would make the empty input inflate. -/
theorem zFinish_zInit_ne_nil : Config.encoder.zFinish Config.encoder.zInit ≠ [] := by
  intro h
  have hc := Config.encoder.contract []
  simp only [feedAll, List.nil_append, List.flatten_nil, h] at hc
  exact absurd hc (by decide)

/-- One write that carries a byte, then a refused one: of two hex digits, of a group's five characters and of a
partial group's four, one is carried. A refused first write carries nothing of a compressor's tail. -/
theorem witness_RefusedWriteFaults :
    ([⟨1, true⟩, ⟨1, false⟩] : List WriteAnswer) = [⟨1, true⟩] ++ ⟨1, false⟩ :: [] ∧
    (∀ a ∈ ([⟨1, true⟩] : List WriteAnswer), a.accepts = true) ∧
    (({ base with hex := ⟨true, 1⟩, answers := [⟨1, true⟩, ⟨1, false⟩] } : State).hex.active = true ∧
      (1 : Nat) = carried (([0xFF] : Bytes).flatMap hexPair).length [⟨1, true⟩]
        (([0xFF] : Bytes).flatMap hexPair).length ∧
      1 < (([0xFF] : Bytes).flatMap hexPair).length) ∧
    (({ holdingThree with answers := [⟨1, true⟩, ⟨1, false⟩] } : State).a85.active = true ∧
      ({ holdingThree with answers := [⟨1, true⟩, ⟨1, false⟩] } : State).holdsBack [0x4D, 0x61, 0x6E] ∧
      (1 : Nat) = carried (a85Groups ([0x4D, 0x61, 0x6E] ++ [0x20])).length [⟨1, true⟩]
        (a85Groups ([0x4D, 0x61, 0x6E] ++ [0x20])).length ∧
      1 < (a85Groups ([0x4D, 0x61, 0x6E] ++ [0x20])).length ∧
      (1 : Nat) = carried (a85Partial [0x4D, 0x61, 0x6E]).length [⟨1, true⟩]
        (a85Partial [0x4D, 0x61, 0x6E]).length ∧
      1 < (a85Partial [0x4D, 0x61, 0x6E]).length) ∧
    (({ flateOpen 0 with answers := [⟨1, false⟩] } : State).answers = [] ++ ⟨1, false⟩ :: [] ∧
      ({ flateOpen 0 with answers := [⟨1, false⟩] } : State).flate.active = true ∧
      0 = carried Config.flateBuf [] (Config.encoder.zFinish
        ({ flateOpen 0 with answers := [⟨1, false⟩] } : State).flateZ).length ∧
      0 < (Config.encoder.zFinish ({ flateOpen 0 with answers := [⟨1, false⟩] } : State).flateZ).length) :=
  ⟨rfl, by decide, ⟨rfl, by decide, by decide⟩,
    ⟨rfl, ⟨by decide, by decide, by decide⟩, by decide, by decide, by decide, by decide⟩,
    rfl, rfl, rfl, List.length_pos_iff.mpr zFinish_zInit_ne_nil⟩

theorem witness_OutOfSessionCommandsFault :
    ({ base with hex := ⟨true, 1⟩ } : State).hex.active = true ∧ holdingThree.a85.active = true ∧
    (flateOpen 0).flate.active = true ∧ base.hex.active = false ∧ base.a85.active = false ∧
    base.flate.active = false := ⟨rfl, rfl, rfl, rfl, rfl, rfl⟩

theorem witness_AbsentInputFaults :
    ({ base with hex := ⟨true, 1⟩ } : State).hex.active = true ∧ holdingThree.a85.active = true ∧
    (flateOpen 0).flate.active = true := ⟨rfl, rfl, rfl⟩

theorem witness_SplitInvariance :
    (accepting 4 3 { base with hex := ⟨true, 1⟩ }).hex.active = true ∧
    (accepting 4 3 { base with hex := ⟨true, 1⟩ }).writesAccepted (2 * (([1] : Bytes) ++ [2]).length) ∧
    (accepting 10 1 holdingThree).a85.active = true ∧
    (accepting 10 1 holdingThree).writesAccepted (5 * (([1] : Bytes) ++ [2]).length) :=
  ⟨rfl, accepting_writesAccepted _ _ _, rfl, accepting_writesAccepted _ _ _⟩

theorem witness_A85SessionLength :
    (accepting 10 1 base).a85.active = false ∧ (7 : SinkId) ≠ 0 ∧ (accepting 10 1 base).sinks.wf = true ∧
    (accepting 10 1 base).writesAccepted (5 * (([[0, 0, 0], [0, 1]] : List Bytes).flatten.length / 4) + 5) :=
  ⟨rfl, by decide, rfl, accepting_writesAccepted _ _ _⟩

theorem witness_HexRoundTrip :
    (accepting 4 9 base).hex.active = false ∧ (255 : SinkId) ≠ 0 ∧ (accepting 4 9 base).sinks.wf = true ∧
    (accepting 4 9 base).sinks.read 255 = [] ∧
    (accepting 4 9 base).writesAccepted (2 * ([[1], [], [0xFF]] : List Bytes).flatten.length) :=
  ⟨rfl, by decide, rfl, rfl, accepting_writesAccepted _ _ _⟩

theorem witness_A85RoundTrip :
    (accepting 10 1 base).a85.active = false ∧ (1 : SinkId) ≠ 0 ∧ (accepting 10 1 base).sinks.wf = true ∧
    (accepting 10 1 base).sinks.read 1 = [] ∧
    (accepting 10 1 base).writesAccepted (5 * (([[0, 0, 0], [0, 1]] : List Bytes).flatten.length / 4) + 5) :=
  ⟨rfl, by decide, rfl, rfl, accepting_writesAccepted _ _ _⟩

/-- A FLATE session of two blocks whose writes are accepted, decoded with Predictor 1 by default. -/
theorem witness_FlateRoundTrip : ∃ n,
    (accepting n 1 base).flate.active = false ∧ (1 : SinkId) ≠ 0 ∧ (accepting n 1 base).sinks.wf = true ∧
    (accepting n 1 base).sinks.read 1 = [] ∧
    (accepting n 1 base).writesAccepted
      ((feedAll Config.encoder.zFeed Config.encoder.zInit [[1], [2]]).2
        ++ Config.encoder.zFinish (feedAll Config.encoder.zFeed Config.encoder.zInit [[1], [2]]).1).length ∧
    (∀ q, some (⟨none, none, none, some 7, none⟩ : Params) = some q → q.predictor.getD 1 = 1) :=
  ⟨_, rfl, by decide, rfl, rfl, accepting_writesAccepted _ _ _, by rintro q ⟨⟩; rfl⟩

theorem witness_FlateSessionHoldsItsInput : ∃ n,
    (accepting n 1 base).flate.active = false ∧ (1 : SinkId) ≠ 0 ∧ (accepting n 1 base).sinks.wf = true ∧
    (accepting n 1 base).writesAccepted
      (feedAll Config.encoder.zFeed Config.encoder.zInit [[1], [2]]).2.length :=
  ⟨_, rfl, by decide, rfl, accepting_writesAccepted _ _ _⟩

theorem witness_HexSymbolEffects :
    Config.wsHex.contains 0x00 = true ∧ (9 : BitVec 4).toNat ≤ 9 ∧
    (1 ≤ (6 : BitVec 3).toNat ∧ (6 : BitVec 3).toNat ≤ 6 ∧ (15 : BitVec 4).toNat = (6 : BitVec 3).toNat + 9) ∧
    (running (hexStart [] none)).work.hi = none ∧
    (running { hexStart [] none with hi := some 15 }).work.hi = some 15 := by decide

/-- The fifth digit at the last legal value and at the first illegal one; a partial group of two digits at
either side of the limit. -/
theorem witness_A85SymbolEffects :
    (running { a85Start [] none with n := 4, acc := 4294967295 }).work.n ≤ 4 ∧
    Config.wsA85 0x7F = true ∧ isA85Digit 0x21 = true ∧ isA85Digit 0x75 = true ∧
    (4294967295 : Nat) = 4294967295 + ((0x21 : Byte).toNat - 33) * 85 ^ (4 - 4) ∧
    (4294967296 : Nat) = 4294967295 + ((0x22 : Byte).toNat - 33) * 85 ^ (4 - 4) ∧
    (running { a85Start [0x7E, 0x3E] none with ip := 1 }).work.input[1]? = some 0x3E ∧
    (running { a85Start [0x7E] none with ip := 1 }).work.input[1]? ≠ some 0x3E ∧
    (4294967295 : Nat) = 4294353170 + 85 ^ (5 - 2) ∧ (4294967296 : Nat) = 4294353171 + 85 ^ (5 - 2) := by
  decide

theorem witness_A85SkipsAnywhere :
    Config.wsA85 0x00 = true ∧ ([0x39] : Bytes).getLast? ≠ some 0x7E ∧ ([] : Bytes).getLast? ≠ some 0x7E := by
  decide

/-- Exactly enough bytes for the longest literal run, and one too few; a following byte, and none. -/
theorem witness_RleControlByteEffects :
    (running (rleStart (List.replicate 128 1) none)).work.ip + ((127 : BitVec 7).toNat + 1) ≤
      (running (rleStart (List.replicate 128 1) none)).work.input.length ∧
    (running (rleStart (List.replicate 127 1) none)).work.input.length <
      (running (rleStart (List.replicate 127 1) none)).work.ip + ((127 : BitVec 7).toNat + 1) ∧
    (1 : BitVec 7) ≠ 0 ∧ (running (rleStart [7] none)).work.input[0]? = some 7 ∧
    (running (rleStart [] none)).work.input[0]? = none := by decide +kernel

theorem witness_RleDecodeOfRecords :
    ([.literal [1], .literal (List.replicate 128 2), .run 2 3, .run 128 4] : List RleRecord).all RleRecord.wf =
      true ∧ (([] : Bytes) = [] ∨ ([] : Bytes) = 0x80 :: []) ∧
    (([0x80, 9] : Bytes) = [] ∨ ([0x80, 9] : Bytes) = 0x80 :: [9]) := by decide +kernel

theorem witness_RleCutRecordFaults :
    ([.run 2 3] : List RleRecord).all RleRecord.wf = true ∧ (RleRecord.literal [1, 2]).wf = true ∧ 1 ≤ 2 ∧
    2 < (RleRecord.literal [1, 2]).encoded.length := by decide

theorem witness_RleExpansionBound : ∃ t, exec (.rleDecode (some [0x81, 0x07]) none) base = .next t :=
  ⟨_, rfl⟩

/-- A known code without and with a previous code; the next code to be assigned. -/
theorem witness_LzwCodeEffects :
    (258 : BitVec 12).toNat < midLzw.work.lzw.tableSize ∧ (258 : BitVec 12).toNat ≠ 256 ∧
    (258 : BitVec 12).toNat ≠ 257 ∧ midLzw.work.lzw.prev = some 65 ∧
    (255 : BitVec 12).toNat < (running (lzwStart [] none)).work.lzw.tableSize ∧
    (running (lzwStart [] none)).work.lzw.prev = none ∧
    (259 : BitVec 12).toNat = midLzw.work.lzw.tableSize ∧
    ([65, 65] : Bytes) = midLzw.work.lzw.entry (65 : BitVec 12).toNat ++ [midLzw.work.lzw.char] := by decide

theorem witness_LzwNotYetDefinedEntry :
    midLzw.work.lzw.Inv ∧ midLzw.work.lzw.prev = some 65 ∧
    (259 : BitVec 12).toNat = midLzw.work.lzw.tableSize :=
  ⟨witness_StepKeepsTransientInvariants.1.lzw, rfl, rfl⟩

/-- Inputs that do and do not inflate, and the Predictor values where the classes meet. -/
theorem witness_FlateDecodeOrder :
    inflate [0x78] = none ∧ inflate (storedFinish [0, 7]) = some [0, 7] ∧
    (1 : Int) = 1 ∧ (2 : Int) = 2 ∧ (0 : Int) ≤ 0 ∧
    (3 ≤ (3 : Int) ∧ (9 : Int) ≤ 9) ∧ 10 ≤ (10 : Int) ∧
    (0 : Int) < 1 := ⟨by decide, inflate_storedFinish _, by decide⟩

/-- One row of one byte, with tag 5 and with tag 4. -/
theorem witness_PngReversalPointwise :
    inflate (storedFinish [5, 7]) = some [5, 7] ∧ HasBadTag 1 [5, 7] ∧
    inflate (storedFinish [4, 7]) = some [4, 7] ∧ ¬ HasBadTag 1 [4, 7] ∧
    10 ≤ (10 : Int) ∧ 1 ≤ (1 : Int) ∧ 1 ≤ (8 : Int) ∧
    ((1 : Nat) : Int) = ((1 : Int) * (8 : Int) + 7) / 8 := by
  refine ⟨inflate_storedFinish _, ⟨0, by decide⟩, inflate_storedFinish _, ?_, by decide⟩
  rintro ⟨row, h1, h2⟩
  have : row = 0 := by simp at h1; omega
  subst this
  exact absurd h2 (by decide)

theorem witness_PredictorClassEffects :
    (1 ≤ (running Work.idle).work.pred.columns ∧ 1 ≤ (running Work.idle).work.pred.bpc) ∧
    (running { Work.idle with pred := { PredictorRegs.start with columns := 0 } }).work.pred.columns <
      1 := by decide

theorem witness_PngRowEffects : ((.pngTagPaeth, 4) : Instr × Byte) ∈ [(.pngTagNone, 0), (.pngTagSub, 1),
    (.pngTagUp, 2), (.pngTagAverage, 3), (.pngTagPaeth, 4)] := by decide

/-- The example of R294; the same with a wrong NLEN; the same cut by one byte; a header cut short. -/
theorem witness_StoredBlockEffect :
    (1 : Nat) = ((running { flateStart [0x78, 1, 1, 1, 0, 0xFE, 0xFF, 0x61] none with
      inf := { InflateRegs.start with bitPos := 3 } }).work.inf.bitPos + 7) / 8 ∧
    ([0x78, 1, 1, 1, 0, 0xFE, 0xFF, 0x61] : Bytes).drop (2 + 1) = 1 :: 0 :: 0xFE :: 0xFF :: [0x61] ∧
    (0xFE : Byte).toNat + 256 * (0xFF : Byte).toNat = 65535 - ((1 : Byte).toNat + 256 * (0 : Byte).toNat) ∧
    (1 : Byte).toNat + 256 * (0 : Byte).toNat ≤ ([0x61] : Bytes).length ∧
    (0xFD : Byte).toNat + 256 * (0xFF : Byte).toNat ≠ 65535 - ((1 : Byte).toNat + 256 * (0 : Byte).toNat) ∧
    ([] : Bytes).length < (1 : Byte).toNat + 256 * (0 : Byte).toNat ∧
    ([0x78, 1, 1, 1, 0, 0xFE] : Bytes).length < 2 + 1 + 4 := by decide

/-- A header cut before HLIT, inside HDIST and inside HCLEN; one with no room for the last length; thirty for HLIT;
four code-length-code lengths that are complete; four that are not. -/
theorem witness_DynamicBlockEffect :
    (readLsb [0, 0] 3 5 = none ∧ readLsb [0, 0, 29] (3 + 5) 5 = none ∧
      readLsb [0, 0, 0, 0] (3 + 5) 5 = some 0 ∧ readLsb [0, 0, 0, 0] (3 + 10) 4 = none) ∧
    (readLsb [0, 0, 29, 0, 0] 0 5 = some 29 ∧ readLsb [0, 0, 29, 0, 0] (0 + 5) 5 = some 0 ∧
      readLsb [0, 0, 29, 0, 0] (0 + 10) 4 = some 0 ∧
      3 < 0 + 4 ∧ readLsb [0, 0, 29, 0, 0] (0 + 14 + 3 * 3) 3 = none) ∧
    (readLsb [0, 0, 30, 0, 0] 0 5 = some 30 ∧ readLsb [0, 0, 30, 0, 0] 5 5 = some 0 ∧
      readLsb [0, 0, 30, 0, 0] 10 4 = some 0) ∧
    (readLsb [0, 0, 29, 0x40, 0x02, 0] 0 5 = some 29 ∧ readLsb [0, 0, 29, 0x40, 0x02, 0] 5 5 = some 0 ∧
      readLsb [0, 0, 29, 0x40, 0x02, 0] 10 4 = some 0 ∧
      (∀ j, j < 4 → readLsb [0, 0, 29, 0x40, 0x02, 0] (14 + 3 * j) 3 = some (([1, 1, 0, 0] : List Nat).getD j 0)) ∧
      kraftSum [1, 1, 0, 0] = 2 ^ 15) ∧
    ((∀ j, j < 4 → readLsb [0, 0, 29, 0, 0, 0] (14 + 3 * j) 3 = some (([0, 0, 0, 0] : List Nat).getD j 0)) ∧
      kraftSum [0, 0, 0, 0] ≠ 2 ^ 15) := by decide

/-- A decode that has read all but the last of 258 code lengths. -/
def midLengths (lens : List Nat) : State := running { flateStart [] none with
  phase := .codeLengths, inf := { InflateRegs.start with nLit := 257, nDist := 1, lens := lens } }

theorem witness_CodeLengthSymbolEffects :
    StandsForLengths (.deflateCodelenLiteral 15) (midLengths []) [15] 0 ∧
    (([] : List Nat) ++ [15]).length < 257 + 1 ∧
    257 + 1 < (List.replicate 258 0 ++ [15]).length ∧
    (List.replicate 256 0 ++ [1] ++ [0]).length = 257 + 1 ∧
    ((List.replicate 256 0 ++ [1] ++ [0]).take 257).getD 256 0 ≠ 0 ∧
    AcceptableLengths ((List.replicate 256 0 ++ [1] ++ [0]).take 257) ∧
    AcceptableLengths ((List.replicate 256 0 ++ [1] ++ [0]).drop 257) ∧
    ((List.replicate 257 0 ++ [0]).take 257).getD 256 0 = 0 ∧ (midLengths []).work.inf.lens = [] ∧
    (readLsb (midLengths []).work.input 0 2 = none ∧ readLsb (midLengths []).work.input 0 3 = none ∧
      readLsb (midLengths []).work.input 0 7 = none) := by
  refine ⟨.inl ⟨15, rfl, rfl, rfl⟩, by decide +kernel, by decide +kernel, by decide +kernel,
    by decide +kernel, .inr (by decide +kernel), .inr (by decide +kernel), by decide +kernel, rfl,
    by decide +kernel⟩

theorem witness_DataSymbolEffects :
    (257 ≤ (257 : BitVec 9).toNat ∧ (285 : BitVec 9).toNat ≤ 285) ∧
    readLsb (running (flateStart [] none)).work.input 0 (lengthExtraOf ((285 : BitVec 9).toNat - 257)) = some 0 ∧
    readLsb (running (flateStart [] none)).work.input 0 (lengthExtraOf ((265 : BitVec 9).toNat - 257)) = none := by
  decide

/-- The least symbol with extra bits at the end of the input; a distance that reaches the first byte of the output,
and one that reaches before it. -/
theorem witness_DistanceSymbolCopies :
    ((4 : BitVec 5).toNat ≤ 29 ∧ readLsb ([] : Bytes) 0 (distExtraOf (4 : BitVec 5).toNat) = none) ∧
    (1 : BitVec 5).toNat ≤ 29 ∧ readLsb ([] : Bytes) 0 (distExtraOf (1 : BitVec 5).toNat) = some 0 ∧
    (2 : Nat) = distBaseOf (1 : BitVec 5).toNat + 0 ∧ (2 : Nat) ≤ ([1, 2] : Bytes).length ∧
    ([1] : Bytes).length < (2 : Nat) := by decide

theorem witness_TrailerEffect :
    (0x00620063 : BitVec 32).toNat ≠ adlerOfSums [0x61] ∧ (0x00620062 : BitVec 32).toNat = adlerOfSums [0x61] ∧
    (running (flateStart [] none)).work.params = none ∧
    (running (flateStart [] (some ⟨none, none, none, none, none⟩))).work.params =
      some ⟨none, none, none, none, none⟩ := by decide

/-- The stored stream of no bytes, all of which is read. -/
theorem witness_InflateReadsExactlyItsStream :
    zlibInflate [0x78, 0x01, 0x01, 0x00, 0x00, 0xFF, 0xFF, 0x00, 0x00, 0x00, 0x01] = some ([], 11) := by
  decide +kernel

end Sys2Proof.Tests
end

/-! ## The state after RESET (10_state.md R46, 70_reset_and_hazards.md R380) -/

namespace Sys2Proof.Machine

/-- Between commands, a `RESET` at the head of the port is taken from it and applied. -/
theorem step_reset {s : State} {rest : List HostEvent} (hidle : s.work.phase = .idle)
    (hport : s.port = .reset :: rest) : step s = .next (resetBlock { s with port := rest }) := by
  obtain ⟨hnil, -⟩ | ⟨rest', hreset, hstep⟩ | ⟨c, rest', hcommand, -⟩ := step_idle hidle
  · simp [hport] at hnil
  · obtain rfl : rest = rest' := by simpa [hport] using hreset
    exact hstep
  · simp [hport] at hcommand

/-- The state the machine starts in is a fixed point of `RESET`, so what `RESET` establishes holds in it. -/
theorem resetBlock_reset : resetBlock State.reset = State.reset := rfl

/-- The table of R46, every persistent register at its reset value, with no command running. -/
def State.RegistersAtReset (t : State) : Prop :=
  (∀ u : UnitId, t.session u = ⟨false, 0⟩) ∧ t.a85Tuple = 0 ∧ t.a85Count = 0 ∧
    t.flateZ = Config.encoder.zInit ∧ t.status = .ok ∧ t.work.phase = .idle

theorem resetBlock_registersAtReset (s : State) : (resetBlock s).RegistersAtReset :=
  ⟨session_resetBlock s, resetBlock_a85Tuple s, resetBlock_a85Count s, resetBlock_flateZ s,
    resetBlock_status s, congrArg Work.phase (resetBlock_work s)⟩

theorem reset_registersAtReset : State.reset.RegistersAtReset :=
  resetBlock_reset ▸ resetBlock_registersAtReset State.reset

/-- Settles O11: `RESET` gives the table of R46 from every state, hence also in its fixed point, the state the
machine starts in. -/
theorem resetRegisterValues : Obligations.ResetRegisterValues := by
  refine ⟨fun s rest hidle hport => ?_, reset_registersAtReset⟩
  obtain ⟨hsession, htuple, hcount, hz, hstatus, hphase⟩ :=
    resetBlock_registersAtReset { s with port := rest }
  exact ⟨_, step_reset hidle hport, hsession, htuple, hcount, hz, hstatus, resetBlock_sinks _, hphase⟩

end Sys2Proof.Machine

/-! ## The reserved command bytes (30_encoding.md R95) -/

namespace Sys2Proof

theorem cmdUnit_eq_none_iff (cmd : Byte) : cmdUnit cmd = none ↔ 5 ≤ cmd.toNat / 16 := by
  rcases hunit : cmd.toNat / 16 with _ | _ | _ | _ | _ | u <;> simp [cmdUnit, hunit]

/-- R91: a byte whose unit field names no unit is reserved, whatever its other fields. -/
theorem decodeCommand_of_noUnit {w : CommandWord} (P : StreamParameters) (hunit : 5 ≤ w.cmd.toNat / 16) :
    decodeCommand w P = .reservedCommand w.cmd := by
  rw [decodeCommand, (cmdUnit_eq_none_iff w.cmd).mpr hunit]

/-- R91: a byte whose zero field is not zero is reserved, whether or not its unit field names a unit. -/
theorem decodeCommand_of_zeroField_ne {w : CommandWord} (P : StreamParameters) (hzero : cmdZero w.cmd ≠ 0) :
    decodeCommand w P = .reservedCommand w.cmd := by
  unfold decodeCommand
  cases cmdUnit w.cmd with
  | none => rfl
  | some u => exact if_neg hzero

namespace Machine

/-- R95: a reserved command only answers, and the answer is a fault without output. -/
theorem exec_reservedCommand (cmd : Byte) (s : State) :
    exec (.reservedCommand cmd) s = .next (respond .invalidArgument [] s) := rfl

/-- Settles O5: the two ways of being reserved are the two checks of `decodeCommand`, and `execReservedCommand`
does nothing but respond; the count is by evaluation over the 256 bytes. -/
theorem reservedCommandBytes : Obligations.ReservedCommandBytes := by
  refine ⟨fun w s hreserved => ⟨?_, exec_reservedCommand w.cmd s⟩, by decide +kernel⟩
  obtain hunit | hzero := hreserved
  · exact decodeCommand_of_noUnit _ hunit
  · exact decodeCommand_of_zeroField_ne _ hzero

end Machine

end Sys2Proof

/-! ## The start of a session (40_hex.md R130, 41_ascii85.md R151, 42_flate.md R182) -/

namespace Sys2Proof.Machine

/-- R343, R344 a: `BEGIN_ENCODE` of any unit as one expression, its checks in their order. -/
theorem beginEncode_eq (u : UnitId) (k : SinkId) (init : State → State) (s : State) :
    beginEncode u k init s =
      if s.active u then respond .invalidState [] s
      else if k = 0 then respond .invalidHandle [] s
      else returnOk (init (s.setSession u ⟨true, k⟩)) := by
  obtain ⟨hactive, h⟩ | ⟨hactive, hk, h⟩ | ⟨hactive, hk, h⟩ := beginEncode_cases u k init s
  · rw [h, if_pos hactive]
  · rw [h, if_neg (by simp [hactive]), if_pos hk]
  · rw [h, if_neg (by simp [hactive]), if_neg hk]

/-- Settles O19: each unit's command is the shared one, with its own buffered data set up at the end. -/
theorem beginEncodeOutcome : Obligations.BeginEncodeOutcome := fun k s =>
  ⟨congrArg Host.Outcome.next (beginEncode_eq .hex k id s),
    congrArg Host.Outcome.next (beginEncode_eq .a85 k (·.clearBuffers .a85 Config.encoder.zInit) s),
    congrArg Host.Outcome.next (beginEncode_eq .flate k (·.clearBuffers .flate Config.encoder.zInit) s)⟩

end Sys2Proof.Machine

/-! ## Sequences of commands (30_encoding.md R118) and their writes (20_memory.md R66 to R68) -/

namespace Sys2Proof.Machine

theorem runAll_cons {i : Instr} {s t : State} (h : exec i s = .next t) (is : List Instr) :
    runAll (i :: is) s = runAll is t := by
  simp only [runAll, h]

theorem runAll_append {is : List Instr} (js : List Instr) : ∀ {s t : State}, runAll is s = some t →
    runAll (is ++ js) s = runAll js t := by
  induction is with
  | nil => rintro s t ⟨⟩; rfl
  | cons i is ih =>
    intro s t h
    simp only [List.cons_append, runAll] at h ⊢
    cases hi : exec i s with
    | next s' => simp only [hi] at h ⊢; exact ih h
    | fault f => simp [hi] at h
    | refused r => simp [hi] at h

/-- Accepted writes cover an emission and, after it, what follows. -/
theorem State.writesAccepted.afterWrites {s : State} {m n used : Nat} (h : s.writesAccepted (m + n))
    (hused : used ≤ m) (k : SinkId) (x : Bytes) : (s.afterWrites used k x).writesAccepted n := by
  obtain ⟨hlen, hacc⟩ := h
  refine ⟨?_, fun a ha => hacc a ?_⟩
  · simp only [State.afterWrites, List.length_drop]; omega
  · have hdrop : a ∈ (s.answers.take (used + n)).drop used := by
      rwa [List.drop_take, Nat.add_sub_cancel_left]
    exact List.take_subset_take_left _ (by omega) (List.mem_of_mem_drop hdrop)

theorem State.writesAccepted.mono {s : State} {m n : Nat} (h : s.writesAccepted n) (hmn : m ≤ n) :
    s.writesAccepted m :=
  ⟨Nat.le_trans hmn h.1, fun a ha => h.2 a (List.take_subset_take_left _ hmn ha)⟩

/-- A command that has nothing to emit makes no write. -/
theorem emitThen_nil (P : Parameters) (u : UnitId) (after : State → State) (s : State) :
    emitThen P u [] after s = returnOk (after s) := rfl

end Sys2Proof.Machine

/-! ## HEX: the text it writes (40_hex.md R131, 30_encoding.md R97) -/

namespace Sys2Proof.Machine

theorem hexChar_eq_hexAlphabet : ∀ v : BitVec 4, hexChar v = hexAlphabet.getD v.toNat 0 := by decide

theorem hexPair_eq (b : Byte) : hexPair b = [hexChar (b.extractLsb' 4 4), hexChar (b.extractLsb' 0 4)] := by
  have hb := b.isLt
  have hhigh : (b.extractLsb' 4 4).toNat = b.toNat / 16 := by
    simp only [BitVec.extractLsb'_toNat, Nat.shiftRight_eq_div_pow]; omega
  have hlow : (b.extractLsb' 0 4).toNat = b.toNat % 16 := by
    simp only [BitVec.extractLsb'_toNat, Nat.shiftRight_zero]
  simp only [hexChar_eq_hexAlphabet, hhigh, hlow, hexPair]

theorem hexText_eq_flatMap (bs : Bytes) : hexText bs = bs.flatMap hexPair := by
  induction bs with
  | nil => rfl
  | cons b bs ih => rw [hexText, ih, List.flatMap_cons, hexPair_eq]; rfl

theorem length_hexText (bs : Bytes) : (hexText bs).length = 2 * bs.length := by
  induction bs with
  | nil => rfl
  | cons b bs ih => simp only [hexText, List.length_cons, ih]; omega

theorem hexText_append (a b : Bytes) : hexText (a ++ b) = hexText a ++ hexText b := by
  simp only [hexText_eq_flatMap, List.flatMap_append]

end Sys2Proof.Machine

/-! ## HEX: a session writes the text of its blocks (40_hex.md R130 to R133) -/

namespace Sys2Proof.Machine

theorem exec_hexBeginEncode_of_inactive {s : State} {k : SinkId} (hactive : s.hex.active = false) (hk : k ≠ 0) :
    exec (.hexBeginEncode k) s = .next (returnOk (s.setSession .hex ⟨true, k⟩)) := by
  refine congrArg Host.Outcome.next ((beginEncode_eq .hex k id s).trans ?_)
  rw [State.active, session_hex, if_neg (by simp [hactive]), if_neg hk, id]

/-- R131: with its writes accepted, a block appends its text to the bound sink. -/
theorem exec_hexEncodeBlock_accepted {s : State} {bs : Bytes} (hactive : s.hex.active = true)
    (hacc : s.writesAccepted (2 * bs.length)) :
    ∃ used, used ≤ 2 * bs.length ∧
      exec (.hexEncodeBlock (some bs)) s = .next (returnOk (s.afterWrites used s.hex.sink (hexText bs))) := by
  rw [← length_hexText] at hacc ⊢
  obtain ⟨used, hused, hemit⟩ := emitThen_accepted Config.parameters .hex (hexText bs) id s hacc
  refine ⟨used, hused, congrArg Host.Outcome.next (Eq.trans ?_ hemit)⟩
  simp only [encodeBlock, State.active, session_hex, hactive, Bool.not_true, Bool.false_eq_true, if_false]

/-- R133: nothing is buffered, so the end of a session writes nothing. -/
theorem exec_hexEndEncode_of_active {s : State} (hactive : s.hex.active = true) :
    exec .hexEndEncode s = .next (returnOk (closeSession .hex Config.encoder.zInit s)) := by
  refine congrArg Host.Outcome.next ?_
  obtain ⟨hinactive, -⟩ | ⟨-, h⟩ := endEncode_cases Config.parameters .hex (fun _ => []) s
  · simp [State.active, hactive] at hinactive
  · rw [h, emitThen_nil, parameters_zInit]

/-- The blocks of an open session, their writes accepted: the session stays open, its sink holds their text. -/
theorem runAll_hexEncodeBlocks (blocks : List Bytes) : ∀ {s : State}, s.hex.active = true →
    s.writesAccepted (2 * blocks.flatten.length) →
    ∃ t, runAll (blocks.map (fun b => .hexEncodeBlock (some b))) s = some t ∧ t.hex = s.hex ∧
      t.sinks = s.sinks.append s.hex.sink (hexText blocks.flatten) := by
  induction blocks with
  | nil => exact fun {s} _ _ => ⟨s, rfl, rfl, (Memory.append_nil _ _).symm⟩
  | cons b blocks ih =>
    intro s hactive hacc
    rw [List.flatten_cons, List.length_append, Nat.mul_add] at hacc
    obtain ⟨used, hused, hexec⟩ := exec_hexEncodeBlock_accepted hactive (hacc.mono (Nat.le_add_right _ _))
    have hacc' := hacc.afterWrites hused s.hex.sink (hexText b)
    obtain ⟨t, hrun, hhex, hsinks⟩ :=
      ih (s := returnOk (s.afterWrites used s.hex.sink (hexText b))) hactive hacc'
    refine ⟨t, (runAll_cons hexec _).trans hrun, hhex, hsinks.trans ?_⟩
    rw [List.flatten_cons, hexText_append]
    exact Memory.append_append _ _ _ _

/-- R118: a whole session, its writes accepted: it ends with `OK` and closed, and its sink has the text of the
blocks more. -/
theorem runAll_hexSession {s : State} {k : SinkId} (blocks : List Bytes) (hactive : s.hex.active = false)
    (hk : k ≠ 0) (hacc : s.writesAccepted (2 * blocks.flatten.length)) :
    ∃ t, runAll (hexSession k blocks) s = some t ∧ t.status = .ok ∧ t.hex = ⟨false, 0⟩ ∧
      t.sinks = s.sinks.append k (hexText blocks.flatten) := by
  obtain ⟨t, hrun, hhex, hsinks⟩ :=
    runAll_hexEncodeBlocks blocks (s := returnOk (s.setSession .hex ⟨true, k⟩)) rfl hacc
  have hopen : t.hex.active = true := by rw [hhex]; rfl
  refine ⟨returnOk (closeSession .hex Config.encoder.zInit t), ?_, rfl, rfl, hsinks⟩
  rw [hexSession, runAll_cons (exec_hexBeginEncode_of_inactive hactive hk), runAll_append _ hrun,
    runAll_cons (exec_hexEndEncode_of_active hopen)]
  rfl

end Sys2Proof.Machine

/-! ## HEX: the decode of its own text (40_hex.md R134 to R139) -/

namespace Sys2Proof.Machine

/-- R96: the characters HEX writes are of the two classes '0'..'9' and 'A'..'F'. -/
theorem decodeHexChar_hexChar : ∀ v : BitVec 4, decodeHexChar (hexChar v) =
    if v.toNat ≤ 9 then .hexDigit09 v else .hexDigitUpper (BitVec.ofNat 3 (v.toNat - 9)) := by decide

/-- R137: the character of a nibble has the nibble as its digit value. -/
theorem runSymbol_hexChar (v : BitVec 4) (w : Work) :
    runSymbol (decodeHexChar (hexChar v)) w = hexNibble v w := by
  rw [decodeHexChar_hexChar]
  by_cases hdigit : v.toNat ≤ 9
  · rw [if_pos hdigit]; rfl
  · rw [if_neg hdigit]
    have hv := v.isLt
    have hvalue : BitVec.ofNat 4 ((BitVec.ofNat 3 (v.toNat - 9)).toNat + 9) = v := by
      apply BitVec.eq_of_toNat_eq
      simp only [BitVec.toNat_ofNat]
      omega
    exact congrArg (hexNibble · w) hvalue

theorem streamNext_hexChar {w : Work} {v : BitVec 4} (hphase : w.phase = .hex)
    (hread : w.input[w.ip]? = some (hexChar v)) :
    streamNext w = hexNibble v { w with ip := w.ip + 1 } := by
  simp only [streamNext, fetch, hphase, hread, runSymbol_hexChar]

/-- R139: the end of the input between pairs ends the command. -/
theorem streamNext_hexEnd {w : Work} (hphase : w.phase = .hex) (hread : w.input[w.ip]? = none)
    (hhi : w.hi = none) : streamNext w = .done w := by
  simp only [streamNext, fetch, hphase, hread, runSymbol, hexEndOfInput, hhi]

theorem runStream_untilEnd_of_running {w w' : Work} (h : streamNext w = .running w') (fuel : Nat) :
    runStream untilEnd (fuel + 1) w = runStream untilEnd fuel w' := by
  simp only [runStream, untilEnd, if_true, h]

theorem runStream_untilEnd_of_done {w w' : Work} (h : streamNext w = .done w') (fuel : Nat) :
    runStream untilEnd (fuel + 1) w = .done w' := by
  simp only [runStream, untilEnd, if_true, h]

/-- R131, R134: the two characters of a byte, read between pairs, add the byte to the output. -/
theorem runStream_hexPair {w : Work} {b : Byte} {rest : Bytes} (hphase : w.phase = .hex) (hhi : w.hi = none)
    (hread : w.input.drop w.ip = hexChar (b.extractLsb' 4 4) :: hexChar (b.extractLsb' 0 4) :: rest)
    (fuel : Nat) :
    runStream untilEnd (fuel + 2) w = runStream untilEnd fuel { w with ip := w.ip + 2, out := w.out ++ [b] } := by
  have hhigh : w.input[w.ip]? = some (hexChar (b.extractLsb' 4 4)) := by
    rw [← Nat.add_zero w.ip, ← List.getElem?_drop, hread]; rfl
  have hlow : w.input[w.ip + 1]? = some (hexChar (b.extractLsb' 0 4)) := by
    rw [← List.getElem?_drop, hread]; rfl
  have hbyte : b.extractLsb' 4 4 ++ b.extractLsb' 0 4 = b := BitVec.extractLsb'_append_extractLsb' (w := 4)
  have hfirst : streamNext w = .running { w with ip := w.ip + 1, hi := some (b.extractLsb' 4 4) } := by
    simp only [streamNext_hexChar hphase hhigh, hexNibble, hhi]
  have hsecond : streamNext { w with ip := w.ip + 1, hi := some (b.extractLsb' 4 4) } =
      .running { w with ip := w.ip + 2, out := w.out ++ [b] } := by
    simp only [streamNext_hexChar (w := { w with ip := w.ip + 1, hi := _ }) hphase hlow, hexNibble, hbyte, ← hhi]
  rw [runStream_untilEnd_of_running hfirst, runStream_untilEnd_of_running hsecond]

/-- The decode loop over the text of `bs`, from between pairs to the end of the input, adds `bs` to the
output. -/
theorem runStream_hexText (bs : Bytes) : ∀ {w : Work}, w.phase = .hex → w.hi = none →
    w.input.drop w.ip = hexText bs →
    ∃ w', runStream untilEnd ((hexText bs).length + 1) w = .done w' ∧ w'.out = w.out ++ bs := by
  induction bs with
  | nil =>
    intro w hphase hhi hread
    have hend : w.input[w.ip]? = none := List.getElem?_eq_none (List.drop_eq_nil_iff.mp hread)
    exact ⟨w, runStream_untilEnd_of_done (streamNext_hexEnd hphase hend hhi) _, (List.append_nil _).symm⟩
  | cons b bs ih =>
    intro w hphase hhi hread
    have hrest : w.input.drop (w.ip + 2) = hexText bs := by rw [← List.drop_drop, hread]; rfl
    obtain ⟨w', hrun, hout⟩ := ih (w := { w with ip := w.ip + 2, out := w.out ++ [b] }) hphase hhi hrest
    exact ⟨w', (runStream_hexPair hphase hhi hread _).trans hrun, by simp [hout]⟩

theorem exec_hexDecode_hexText (bs : Bytes) (p : Option Params) (s : State) :
    exec (.hexDecode (some (hexText bs)) p) s = .next (s.decodeDone bs) := by
  obtain ⟨w', hrun, hout⟩ := runStream_hexText bs (w := hexStart (hexText bs) p) rfl rfl rfl
  have hexec : exec (.hexDecode (some (hexText bs)) p) s = deliver (hexRun (hexText bs) p) s := rfl
  obtain rfl : w'.out = bs := hout
  rw [hexec, hexRun, hrun]
  rfl

/-- Settles O31: the session writes the text of its blocks, and that text decodes to them. -/
theorem hexRoundTrip : Obligations.HexRoundTrip := by
  intro s k blocks p hactive hk hwf hempty hacc
  obtain ⟨t, hrun, hstatus, hclosed, hsinks⟩ := runAll_hexSession blocks hactive hk hacc
  have hread : t.sinks.read k = hexText blocks.flatten := by
    rw [hsinks, Memory.read_append_self _ _ _ hwf, hempty, List.nil_append]
  exact ⟨t, hrun, hstatus, hclosed, hread ▸ exec_hexDecode_hexText _ _ _⟩

end Sys2Proof.Machine

/-! ## A85: the tuple as the number of the bytes held back (41_ascii85.md R150, R153) -/

namespace Sys2Proof.Machine

theorem tupleNumber_lt (q : Bytes) : tupleNumber q < 2 ^ 32 := by
  have h0 := (q.getD 0 0).isLt
  have h1 := (q.getD 1 0).isLt
  have h2 := (q.getD 2 0).isLt
  have h3 := (q.getD 3 0).isLt
  simp only [tupleNumber]
  omega

theorem tupleNumber_append_byte (b : Byte) : ∀ q : Bytes, q.length ≤ 3 →
    tupleNumber (q ++ [b]) = tupleNumber q + b.toNat * 2 ^ (8 * (3 - q.length))
  | [], _ | [_], _ | [_, _], _ | [_, _, _], _ => by simp [tupleNumber]
  | _ :: _ :: _ :: _ :: _, h => by simp only [List.length_cons] at h; omega

/-- The places of the tuple below the bytes held back are zeros (R47 I-c). -/
theorem two_pow_dvd_tupleNumber : ∀ q : Bytes, q.length ≤ 3 → 2 ^ (8 * (3 - q.length) + 8) ∣ tupleNumber q
  | [], _ => Nat.dvd_zero _
  | [_], _ | [_, _], _ | [_, _, _], _ => Nat.dvd_of_mod_eq_zero (by
    simp only [tupleNumber, List.getD_cons_zero, List.getD_cons_succ, List.getD_nil, List.length_cons,
      List.length_nil, BitVec.ofNat_eq_ofNat, BitVec.toNat_ofNat, Nat.reduceAdd, Nat.reduceSub, Nat.reduceMul,
      Nat.reducePow]
    omega)
  | _ :: _ :: _ :: _ :: _, h => by simp only [List.length_cons] at h; omega

/-- R153: the byte lands in places that are zeros, so placing it is adding it. -/
theorem toNat_placeByte {t : BitVec 32} {n : BitVec 3} {q : Bytes} (b : Byte) (hq : q.length ≤ 3)
    (hn : n.toNat = q.length) (ht : t.toNat = tupleNumber q) :
    (placeByte t n b).toNat = tupleNumber (q ++ [b]) := by
  have hlow : b.toNat * 2 ^ (8 * (3 - q.length)) < 2 ^ (8 * (3 - q.length) + 8) := by
    rw [Nat.pow_add, Nat.mul_comm]
    exact Nat.mul_lt_mul_of_pos_left b.isLt (Nat.two_pow_pos _)
  have hword : b.toNat * 2 ^ (8 * (3 - q.length)) < 2 ^ 32 :=
    Nat.lt_of_lt_of_le hlow (Nat.pow_le_pow_right (by omega) (by omega))
  have hbyte : ((b.setWidth 32) <<< (8 * (3 - n.toNat))).toNat = b.toNat * 2 ^ (8 * (3 - q.length)) := by
    rw [BitVec.toNat_shiftLeft, BitVec.toNat_setWidth_of_le (by omega), Nat.shiftLeft_eq, hn,
      Nat.mod_eq_of_lt hword]
  obtain ⟨high, hhigh⟩ := two_pow_dvd_tupleNumber q hq
  rw [placeByte, BitVec.toNat_or, hbyte, ht, tupleNumber_append_byte b q hq, hhigh,
    Nat.two_pow_add_eq_or_of_lt hlow]

theorem length_base85 (t : Nat) : (base85 t).length = 5 := rfl

theorem tupleChars_eq_base85 (t : BitVec 32) : tupleChars t = base85 t.toNat := by
  have hfirst : t.toNat / 52200625 % 85 = t.toNat / 52200625 := Nat.mod_eq_of_lt (by omega)
  simp [tupleChars, base85, hfirst]

theorem encodeTuple_eq_take_base85 (t : BitVec 32) (k : Nat) :
    encodeTuple t k = (base85 t.toNat).take (k + 1) := by
  rw [encodeTuple, tupleChars_eq_base85]

theorem groupText_eq (t : BitVec 32) : groupText t = if t.toNat = 0 then [0x7A] else base85 t.toNat := by
  have hzero : t = 0 ↔ t.toNat = 0 := ⟨by rintro rfl; rfl, fun h => BitVec.eq_of_toNat_eq h⟩
  simp only [groupText, hzero, encodeTuple_eq_take_base85]
  rfl

end Sys2Proof.Machine

/-! ## A85: the text it writes, complete groups and a last one (41_ascii85.md R153, R154, R156) -/

namespace Sys2Proof.Machine

/-- The text of a whole session over `bs` (R150 to R156). -/
def a85Text (bs : Bytes) : Bytes := a85Groups bs ++ a85Partial (a85Rest bs)

theorem length_a85Rest (bs : Bytes) : (a85Rest bs).length = bs.length % 4 := by
  induction bs using a85Rest.induct with
  | case1 a b c d rest ih => simp only [a85Rest, ih, List.length_cons]; omega
  | case2 | case3 | case4 | case5 => rfl

theorem a85Rest_of_length_le : ∀ {q : Bytes}, q.length ≤ 3 → a85Rest q = q
  | [], _ | [_], _ | [_, _], _ | [_, _, _], _ => rfl
  | _ :: _ :: _ :: _ :: _, h => by simp only [List.length_cons] at h; omega

theorem a85Groups_of_length_le : ∀ {q : Bytes}, q.length ≤ 3 → a85Groups q = []
  | [], _ | [_], _ | [_, _], _ | [_, _, _], _ => rfl
  | _ :: _ :: _ :: _ :: _, h => by simp only [List.length_cons] at h; omega

theorem a85Rest_group_append {bs : Bytes} : ∀ {g : Bytes}, g.length = 4 → a85Rest (g ++ bs) = a85Rest bs
  | [_, _, _, _], _ => rfl

/-- R153, R154: a complete group at the front has its own text. -/
theorem a85Groups_group_append {bs : Bytes} : ∀ {g : Bytes}, g.length = 4 →
    a85Groups (g ++ bs) = (if tupleNumber g = 0 then [0x7A] else base85 (tupleNumber g)) ++ a85Groups bs
  | [_, _, _, _], _ => rfl

/-- Cutting the input leaves the groups the same, when what the first part holds back goes before the second. -/
theorem a85Groups_append (x y : Bytes) : a85Groups (x ++ y) = a85Groups x ++ a85Groups (a85Rest x ++ y) := by
  induction x using a85Rest.induct with
  | case1 a b c d rest ih => simp only [List.cons_append, a85Groups, a85Rest, ih, List.append_assoc]
  | case2 | case3 | case4 | case5 => rfl

theorem a85Rest_append (x y : Bytes) : a85Rest (x ++ y) = a85Rest (a85Rest x ++ y) := by
  induction x using a85Rest.induct with
  | case1 a b c d rest ih => simp only [List.cons_append, a85Rest, ih]
  | case2 | case3 | case4 | case5 => rfl

/-- R153: feeding bytes after the bytes `q` held back emits the complete groups and holds back the rest. -/
theorem feedTuple_spec (bs : Bytes) : ∀ {q : Bytes} {t : BitVec 32} {n : BitVec 3}, q.length ≤ 3 →
    n.toNat = q.length → t.toNat = tupleNumber q →
    (feedTuple bs t n).1.toNat = tupleNumber (a85Rest (q ++ bs)) ∧
      (feedTuple bs t n).2.1.toNat = (a85Rest (q ++ bs)).length ∧
      (feedTuple bs t n).2.2 = a85Groups (q ++ bs) := by
  induction bs with
  | nil =>
    intro q t n hq hn ht
    rw [List.append_nil, a85Rest_of_length_le hq, a85Groups_of_length_le hq]
    exact ⟨ht, hn, rfl⟩
  | cons b bs ih =>
    intro q t n hq hn ht
    have hplace := toNat_placeByte b hq hn ht
    by_cases hfull : n + 1 = 4
    · obtain rfl : n = 3 := by bv_omega
      have hgroup : (q ++ [b]).length = 4 := by
        rw [List.length_append, ← hn]; rfl
      obtain ⟨htuple, hcount, htext⟩ := ih (q := []) (t := 0) (n := 0) (Nat.zero_le _) rfl rfl
      simp only [feedTuple, if_pos hfull, groupText_eq, hplace, htext]
      rw [List.append_cons, a85Rest_group_append hgroup, a85Groups_group_append hgroup]
      exact ⟨htuple, hcount, rfl⟩
    · have hlt : n.toNat ≠ 3 := by bv_omega
      have hcount : (n + 1).toNat = (q ++ [b]).length := by
        rw [List.length_append, List.length_singleton]; bv_omega
      have hlen : (q ++ [b]).length ≤ 3 := by rw [List.length_append, List.length_singleton]; omega
      simp only [feedTuple, if_neg hfull]
      rw [List.append_cons]
      exact ih hlen hcount hplace

end Sys2Proof.Machine

/-! ## A85: a session writes the text of its blocks (41_ascii85.md R151 to R156) -/

namespace Sys2Proof.Machine

theorem a85Feed_spec {s : State} {q : Bytes} (bs : Bytes) (hheld : s.holdsBack q) :
    (a85Feed bs s).1 = a85Groups (q ++ bs) ∧ (a85Feed bs s).2.holdsBack (a85Rest (q ++ bs)) := by
  obtain ⟨hq, hn, ht⟩ := hheld
  obtain ⟨htuple, hcount, htext⟩ := feedTuple_spec bs hq hn ht
  have hlen : (a85Rest (q ++ bs)).length ≤ 3 := by rw [length_a85Rest]; omega
  exact ⟨htext, hlen, hcount, htuple⟩

theorem a85Tail_eq {s : State} {q : Bytes} (hheld : s.holdsBack q) : a85Tail s = a85Partial q := by
  obtain ⟨-, hn, ht⟩ := hheld
  have hempty : s.a85Count = 0 ↔ q = [] := by
    rw [← List.length_eq_zero_iff, ← hn]
    exact ⟨fun h => by rw [h]; rfl, fun h => BitVec.eq_of_toNat_eq h⟩
  simp only [a85Tail, a85Partial, hempty, encodeTuple_eq_take_base85, hn, ht]

theorem exec_a85BeginEncode_of_inactive {s : State} {k : SinkId} (hactive : s.a85.active = false)
    (hk : k ≠ 0) :
    exec (.a85BeginEncode k) s =
      .next (returnOk ((s.setSession .a85 ⟨true, k⟩).clearBuffers .a85 Config.encoder.zInit)) := by
  refine congrArg Host.Outcome.next
    ((beginEncode_eq .a85 k (·.clearBuffers .a85 Config.encoder.zInit) s).trans ?_)
  rw [State.active, session_a85, if_neg (by simp [hactive]), if_neg hk]

/-- R153, R154: with its writes accepted, a block appends the text of the groups that it completes. -/
theorem exec_a85EncodeBlock_accepted {s : State} {q bs : Bytes} (hactive : s.a85.active = true)
    (hheld : s.holdsBack q) (hacc : s.writesAccepted (a85Groups (q ++ bs)).length) :
    ∃ used, used ≤ (a85Groups (q ++ bs)).length ∧ exec (.a85EncodeBlock (some bs)) s =
      .next (returnOk ((a85Feed bs s).2.afterWrites used s.a85.sink (a85Groups (q ++ bs)))) := by
  obtain ⟨used, hused, hemit⟩ := emitThen_accepted Config.parameters .a85 (a85Groups (q ++ bs)) id
    (a85Feed bs s).2 hacc
  refine ⟨used, hused, congrArg Host.Outcome.next (Eq.trans ?_ hemit)⟩
  simp only [encodeBlock, State.active, session_a85, hactive, Bool.not_true, Bool.false_eq_true, if_false,
    (a85Feed_spec bs hheld).1]

/-- R156: with its writes accepted, the end of a session appends the text of the bytes held back. -/
theorem exec_a85EndEncode_accepted {s : State} {q : Bytes} (hactive : s.a85.active = true)
    (hheld : s.holdsBack q) (hacc : s.writesAccepted (a85Partial q).length) :
    ∃ used, used ≤ (a85Partial q).length ∧ exec .a85EndEncode s = .next (returnOk
      (closeSession .a85 Config.encoder.zInit (s.afterWrites used s.a85.sink (a85Partial q)))) := by
  obtain ⟨used, hused, hemit⟩ := emitThen_accepted Config.parameters .a85 (a85Partial q)
    (closeSession .a85 Config.parameters.zInit) s hacc
  refine ⟨used, hused, congrArg Host.Outcome.next (Eq.trans ?_ hemit)⟩
  simp only [endEncode, State.active, session_a85, hactive, Bool.not_true, Bool.false_eq_true, if_false,
    a85Tail_eq hheld]

/-- The blocks of an open session, the writes for them and `n` more accepted: the session stays open, its sink
holds the text of their groups, the last bytes are held back. -/
theorem runAll_a85EncodeBlocks (blocks : List Bytes) (n : Nat) : ∀ {s : State} {q : Bytes},
    s.a85.active = true → s.holdsBack q → s.writesAccepted ((a85Groups (q ++ blocks.flatten)).length + n) →
    ∃ t, runAll (blocks.map (fun b => .a85EncodeBlock (some b))) s = some t ∧ t.a85 = s.a85 ∧
      t.sinks = s.sinks.append s.a85.sink (a85Groups (q ++ blocks.flatten)) ∧
      t.holdsBack (a85Rest (q ++ blocks.flatten)) ∧ t.writesAccepted n := by
  induction blocks with
  | nil =>
    intro s q _ hheld hacc
    have hgroups := a85Groups_of_length_le hheld.1
    rw [List.flatten_nil, List.append_nil] at hacc ⊢
    rw [a85Rest_of_length_le hheld.1, hgroups, Memory.append_nil]
    exact ⟨s, rfl, rfl, rfl, hheld, hacc.mono (Nat.le_add_left _ _)⟩
  | cons b blocks ih =>
    intro s q hactive hheld hacc
    rw [List.flatten_cons, ← List.append_assoc, a85Groups_append] at hacc ⊢
    rw [List.length_append, Nat.add_assoc] at hacc
    obtain ⟨used, hused, hexec⟩ := exec_a85EncodeBlock_accepted hactive hheld (hacc.mono (Nat.le_add_right _ _))
    obtain ⟨t, hrun, hsession, hsinks, hrest, hmore⟩ :=
      ih (s := returnOk ((a85Feed b s).2.afterWrites used s.a85.sink (a85Groups (q ++ b)))) hactive
        (a85Feed_spec b hheld).2 (hacc.afterWrites hused s.a85.sink (a85Groups (q ++ b)))
    refine ⟨t, (runAll_cons hexec _).trans hrun, hsession, hsinks.trans (Memory.append_append _ _ _ _), ?_, hmore⟩
    rwa [a85Rest_append]

/-- R118: a whole session, its writes accepted: it ends with `OK` and closed, and its sink has the text of the
blocks more. -/
theorem runAll_a85Session {s : State} {k : SinkId} (blocks : List Bytes) (hactive : s.a85.active = false)
    (hk : k ≠ 0) (hacc : s.writesAccepted (a85Text blocks.flatten).length) :
    ∃ t, runAll (a85Session k blocks) s = some t ∧ t.status = .ok ∧ t.a85 = ⟨false, 0⟩ ∧
      t.sinks = s.sinks.append k (a85Text blocks.flatten) := by
  rw [a85Text, List.length_append] at hacc
  obtain ⟨t, hrun, hsession, hsinks, hrest, hmore⟩ := runAll_a85EncodeBlocks blocks _ (q := [])
    (s := returnOk ((s.setSession .a85 ⟨true, k⟩).clearBuffers .a85 Config.encoder.zInit)) rfl
    ⟨Nat.zero_le _, rfl, rfl⟩ hacc
  have hopen : t.a85.active = true := by rw [hsession]; rfl
  have hsink : t.a85.sink = k := by rw [hsession]; rfl
  obtain ⟨used, -, hend⟩ := exec_a85EndEncode_accepted hopen hrest hmore
  refine ⟨returnOk (closeSession .a85 Config.encoder.zInit
    (t.afterWrites used t.a85.sink (a85Partial (a85Rest blocks.flatten)))), ?_, rfl, rfl, ?_⟩
  · rw [a85Session, runAll_cons (exec_a85BeginEncode_of_inactive hactive hk), runAll_append _ hrun,
      runAll_cons hend]
    rfl
  · calc t.sinks.append t.a85.sink (a85Partial (a85Rest blocks.flatten))
      _ = (s.sinks.append k (a85Groups blocks.flatten)).append k (a85Partial (a85Rest blocks.flatten)) := by
        rw [hsinks, hsink]; rfl
      _ = s.sinks.append k (a85Text blocks.flatten) := Memory.append_append _ _ _ _

end Sys2Proof.Machine

/-! ## A85: the length and the alphabet of the text (41_ascii85.md R157) -/

namespace Sys2Proof.Machine

/-- How many complete groups of `bs` are zero, as R157 counts them. -/
def zeroGroups (bs : Bytes) : Nat :=
  ((List.range (bs.length / 4)).filter (fun g => tupleNumber (bs.drop (4 * g)) = 0)).length

theorem zeroGroups_cons (a b c d : Byte) (rest : Bytes) : zeroGroups (a :: b :: c :: d :: rest) =
    (if tupleNumber [a, b, c, d] = 0 then 1 else 0) + zeroGroups rest := by
  have hlen : (a :: b :: c :: d :: rest).length / 4 = rest.length / 4 + 1 := by
    simp only [List.length_cons]; omega
  have hfirst : tupleNumber (a :: b :: c :: d :: rest) = tupleNumber [a, b, c, d] := rfl
  simp only [zeroGroups, hlen, ← List.countP_eq_length_filter, List.range_succ_eq_map, List.countP_cons,
    List.countP_map, Function.comp_def, Nat.mul_succ, List.drop_succ_cons, Nat.mul_zero, List.drop_zero, hfirst,
    decide_eq_true_eq]
  exact Nat.add_comm _ _

theorem length_a85Groups (bs : Bytes) :
    (a85Groups bs).length + 4 * zeroGroups bs = 5 * (bs.length / 4) := by
  induction bs using a85Rest.induct with
  | case1 a b c d rest ih =>
    rw [a85Groups, zeroGroups_cons, List.length_append]
    simp only [List.length_cons]
    split
    · simp only [List.length_singleton]; omega
    · simp only [length_base85]; omega
  | case2 | case3 | case4 | case5 => simp [a85Groups, zeroGroups]

theorem length_a85Partial {q : Bytes} (hq : q.length ≤ 3) :
    (a85Partial q).length = if q.length = 0 then 0 else q.length + 1 := by
  rw [a85Partial]
  simp only [List.length_eq_zero_iff]
  split
  · rfl
  · rw [List.length_take, length_base85]; omega

theorem length_a85Text (bs : Bytes) : (a85Text bs).length + 4 * zeroGroups bs =
    5 * (bs.length / 4) + if bs.length % 4 = 0 then 0 else bs.length % 4 + 1 := by
  have hrest := length_a85Rest bs
  have hlast := length_a85Partial (q := a85Rest bs) (by omega)
  have hgroups := length_a85Groups bs
  rw [hrest] at hlast
  rw [a85Text, List.length_append]
  omega

/-- R150, R157: the characters of Ascii85 text, the digits and 'z'. -/
def IsA85TextChar (c : Byte) : Prop := (0x21 ≤ c.toNat ∧ c.toNat ≤ 0x75) ∨ c = 0x7A

theorem isA85TextChar_of_mem_base85 {t : Nat} {c : Byte} (hc : c ∈ base85 t) : IsA85TextChar c := by
  obtain ⟨e, -, rfl⟩ := List.mem_map.mp hc
  have hdigit : t / 85 ^ e % 85 < 85 := Nat.mod_lt _ (by omega)
  left
  rw [BitVec.toNat_ofNat]
  omega

theorem isA85TextChar_of_mem_a85Groups (bs : Bytes) : ∀ c ∈ a85Groups bs, IsA85TextChar c := by
  induction bs using a85Rest.induct with
  | case1 a b c d rest ih =>
    intro x hx
    obtain hgroup | hrest := List.mem_append.mp hx
    · split at hgroup
      · exact .inr (List.mem_singleton.mp hgroup)
      · exact isA85TextChar_of_mem_base85 hgroup
    · exact ih x hrest
  | case2 | case3 | case4 | case5 => exact fun _ hx => absurd hx List.not_mem_nil

theorem isA85TextChar_of_mem_a85Partial {q : Bytes} {c : Byte} (hc : c ∈ a85Partial q) : IsA85TextChar c := by
  rw [a85Partial] at hc
  split at hc
  · exact absurd hc List.not_mem_nil
  · exact isA85TextChar_of_mem_base85 (List.mem_of_mem_take hc)

/-- Settles O30: the session writes `a85Text` of its blocks, whose length and characters are those of its
groups and of its last partial group. -/
theorem a85SessionLength : Obligations.A85SessionLength := by
  intro s k blocks hactive hk hwf hacc
  have hlen := length_a85Text blocks.flatten
  obtain ⟨t, hrun, -, -, hsinks⟩ := runAll_a85Session blocks hactive hk (hacc.mono (by split at hlen <;> omega))
  refine ⟨t, a85Text blocks.flatten, hrun, ?_, hlen, fun c hc => ?_⟩
  · rw [hsinks, Memory.read_append_self _ _ _ hwf]
  · obtain hgroups | hlast := List.mem_append.mp hc
    · exact isA85TextChar_of_mem_a85Groups _ c hgroups
    · exact isA85TextChar_of_mem_a85Partial hlast

end Sys2Proof.Machine

/-! ## The encode commands of RLE and LZW (44_rle.md R241, 45_lzw.md R261) -/

namespace Sys2Proof.Machine

/-- Settles O28: each of the six commands is the one fault that keeps the state. -/
theorem rleAndLzwEncodeUnsupported : Obligations.RleAndLzwEncodeUnsupported := by
  intro s k x
  have hraise : (Host.Outcome.next (raise .keepsState .unsupportedOperation s) :
      Host.Outcome State Fault Refusal) = .next { s with status := .unsupportedOperation, out := [] } :=
    congrArg Host.Outcome.next (raise_keepsState .unsupportedOperation s)
  exact ⟨hraise, hraise, hraise, hraise, hraise, hraise⟩

end Sys2Proof.Machine

/-! ## RLE: the control byte of a record (30_encoding.md R101, 44_rle.md R243) -/

namespace Sys2Proof.Machine

theorem RleRecord.wf_literal_iff {bytes : Bytes} :
    (RleRecord.literal bytes).wf = true ↔ 1 ≤ bytes.length ∧ bytes.length ≤ 128 := by
  simp only [RleRecord.wf, Bool.and_eq_true, decide_eq_true_eq]

theorem RleRecord.wf_run_iff {count : Nat} {byte : Byte} :
    (RleRecord.run count byte).wf = true ↔ 2 ≤ count ∧ count ≤ 128 := by
  simp only [RleRecord.wf, Bool.and_eq_true, decide_eq_true_eq]

theorem RleRecord.one_le_length_encoded : ∀ r : RleRecord, 1 ≤ r.encoded.length
  | .literal _ | .run _ _ => Nat.succ_le_succ (Nat.zero_le _)

/-- Each record is at least its control byte. -/
theorem length_le_length_flatMap_encoded (records : List RleRecord) :
    records.length ≤ (records.flatMap RleRecord.encoded).length := by
  induction records with
  | nil => exact Nat.le_refl _
  | cons r records ih =>
    have hr := r.one_le_length_encoded
    rw [List.flatMap_cons, List.length_append, List.length_cons]
    omega

theorem decodeRleControl_literal {n : Nat} (hn : n ≤ 127) :
    decodeRleControl (BitVec.ofNat 8 n) = .rleLiteral (BitVec.ofNat 7 n) := by
  have hclass : (BitVec.ofNat 8 n).toNat ≤ 127 := by rw [BitVec.toNat_ofNat]; omega
  have hfield : (BitVec.ofNat 8 n).extractLsb' 0 7 = BitVec.ofNat 7 n := by
    apply BitVec.eq_of_toNat_eq
    simp only [BitVec.extractLsb'_toNat, BitVec.toNat_ofNat, Nat.shiftRight_zero]
    omega
  rw [decodeRleControl, if_pos hclass, hfield]

theorem decodeRleControl_replicate {n : Nat} (hlow : 1 ≤ n) (hhigh : n ≤ 127) :
    decodeRleControl (BitVec.ofNat 8 (128 + n)) = .rleReplicate (BitVec.ofNat 7 n) := by
  have hvalue : (BitVec.ofNat 8 (128 + n)).toNat = 128 + n := by rw [BitVec.toNat_ofNat]; omega
  have hnotLiteral : ¬ (BitVec.ofNat 8 (128 + n)).toNat ≤ 127 := by omega
  have hnotEod : BitVec.ofNat 8 (128 + n) ≠ 0x80 := by
    intro h
    have heod : 128 + n = 128 := hvalue.symm.trans (congrArg BitVec.toNat h)
    omega
  have hfield : (BitVec.ofNat 8 (128 + n)).extractLsb' 0 7 = BitVec.ofNat 7 n := by
    apply BitVec.eq_of_toNat_eq
    simp only [BitVec.extractLsb'_toNat, hvalue, BitVec.toNat_ofNat, Nat.shiftRight_zero]
    omega
  rw [decodeRleControl, if_neg hnotLiteral, if_neg hnotEod, hfield]

end Sys2Proof.Machine

/-! ## RLE: one record, whole or cut (44_rle.md R244 to R247) -/

namespace Sys2Proof.Machine

theorem getElem?_and_drop_of_drop_eq_cons {α : Type} {l : List α} {i : Nat} {a : α} {rest : List α}
    (h : l.drop i = a :: rest) : l[i]? = some a ∧ l.drop (i + 1) = rest := by
  refine ⟨?_, ?_⟩
  · rw [← Nat.add_zero i, ← List.getElem?_drop, h]; rfl
  · rw [← List.drop_drop, h]; rfl

/-- One turn of the loop runs the class of the control byte, the cursor past it (R242). -/
theorem streamNext_rleControl {w : Work} {c : Byte} (hphase : w.phase = .rle)
    (hread : w.input[w.ip]? = some c) :
    streamNext w = runSymbol (decodeRleControl c) { w with ip := w.ip + 1 } := by
  simp only [streamNext, fetch, hphase, hread]

/-- R244: a literal run whose bytes all remain. -/
theorem rleLiteral_of_drop_eq {w : Work} {n : BitVec 7} {bytes rest : Bytes} (hn : n.toNat + 1 = bytes.length)
    (hread : w.input.drop w.ip = bytes ++ rest) :
    rleLiteral n w = .running { w with out := w.out ++ bytes, ip := w.ip + bytes.length } := by
  have hremain := congrArg List.length hread
  rw [List.length_drop, List.length_append] at hremain
  have hfits : ¬ w.ip + bytes.length > w.input.length := by omega
  rw [rleLiteral, hn, hread, List.take_left, if_neg hfits]

/-- R247: a literal run that asks for more bytes than remain. -/
theorem rleLiteral_of_short {w : Work} {n : BitVec 7} (hshort : (w.input.drop w.ip).length < n.toNat + 1) :
    rleLiteral n w = .raised .valueOutOfRange := by
  rw [List.length_drop] at hshort
  rw [rleLiteral, if_pos (by omega)]

/-- R101, R243: the control byte of a literal record starts a literal run of its length. -/
theorem streamNext_rleLiteral {w : Work} {bytes rest : Bytes} (hphase : w.phase = .rle)
    (hlen : bytes.length ≤ 128) (hread : w.input.drop w.ip = BitVec.ofNat 8 (bytes.length - 1) :: rest) :
    streamNext w = rleLiteral (BitVec.ofNat 7 (bytes.length - 1)) { w with ip := w.ip + 1 } := by
  rw [streamNext_rleControl hphase (getElem?_and_drop_of_drop_eq_cons hread).1,
    decodeRleControl_literal (by omega)]
  rfl

/-- R101, R243: the control byte of a run record, `128 + (129 - count)`, starts a replicate run. -/
theorem streamNext_rleReplicate {w : Work} {count : Nat} {rest : Bytes} (hphase : w.phase = .rle)
    (hlow : 2 ≤ count) (hhigh : count ≤ 128)
    (hread : w.input.drop w.ip = BitVec.ofNat 8 (257 - count) :: rest) :
    streamNext w = rleReplicate (BitVec.ofNat 7 (129 - count)) { w with ip := w.ip + 1 } := by
  have hcontrol : 257 - count = 128 + (129 - count) := by omega
  rw [streamNext_rleControl hphase (getElem?_and_drop_of_drop_eq_cons hread).1, hcontrol,
    decodeRleControl_replicate (by omega) (by omega)]
  rfl

/-- The registers after whole records: the cursor past them, their output appended (R242). -/
def Work.pastRleRecords (records : List RleRecord) (w : Work) : Work :=
  { w with
    ip := w.ip + (records.flatMap RleRecord.encoded).length
    out := w.out ++ records.flatMap RleRecord.expanded }

@[simp] theorem Work.pastRleRecords_nil (w : Work) : w.pastRleRecords [] = w := by
  simp only [Work.pastRleRecords, List.flatMap_nil, List.length_nil, Nat.add_zero, List.append_nil]

theorem Work.pastRleRecords_singleton (r : RleRecord) (w : Work) :
    w.pastRleRecords [r] = { w with ip := w.ip + r.encoded.length, out := w.out ++ r.expanded } := by
  simp only [Work.pastRleRecords, List.flatMap_singleton]

theorem Work.pastRleRecords_cons (r : RleRecord) (records : List RleRecord) (w : Work) :
    w.pastRleRecords (r :: records) = (w.pastRleRecords [r]).pastRleRecords records := by
  simp only [Work.pastRleRecords, List.flatMap_cons, List.flatMap_nil, List.append_nil, List.length_append,
    Nat.add_assoc, List.append_assoc]

theorem Work.drop_pastRleRecords {records : List RleRecord} {rest : Bytes} {w : Work}
    (hread : w.input.drop w.ip = records.flatMap RleRecord.encoded ++ rest) :
    (w.pastRleRecords records).input.drop (w.pastRleRecords records).ip = rest := by
  rw [Work.pastRleRecords, ← List.drop_drop, hread, List.drop_left]

/-- R244, R246: a turn of the loop on a whole record outputs what the record stands for. -/
theorem streamNext_rleRecord {w : Work} {r : RleRecord} {rest : Bytes} (hphase : w.phase = .rle)
    (hwf : r.wf = true) (hread : w.input.drop w.ip = r.encoded ++ rest) :
    streamNext w = .running (w.pastRleRecords [r]) := by
  rw [Work.pastRleRecords_singleton]
  cases r with
  | literal bytes =>
    obtain ⟨hlow, hhigh⟩ := RleRecord.wf_literal_iff.mp hwf
    rw [RleRecord.encoded, List.cons_append] at hread
    have hcount : (BitVec.ofNat 7 (bytes.length - 1)).toNat + 1 = bytes.length := by
      rw [BitVec.toNat_ofNat]; omega
    rw [streamNext_rleLiteral hphase hhigh hread,
      rleLiteral_of_drop_eq hcount (getElem?_and_drop_of_drop_eq_cons hread).2]
    simp only [RleRecord.encoded, RleRecord.expanded, List.length_cons, Nat.add_assoc, Nat.add_comm 1]
  | run count byte =>
    obtain ⟨hlow, hhigh⟩ := RleRecord.wf_run_iff.mp hwf
    rw [RleRecord.encoded, List.cons_append] at hread
    have hbyte : w.input[w.ip + 1]? = some byte :=
      (getElem?_and_drop_of_drop_eq_cons (getElem?_and_drop_of_drop_eq_cons hread).2).1
    have hcount : 257 - (128 + (BitVec.ofNat 7 (129 - count)).toNat) = count := by
      rw [BitVec.toNat_ofNat]; omega
    rw [streamNext_rleReplicate hphase hlow hhigh hread]
    simp only [rleReplicate, hbyte, hcount]
    rfl

/-- R247: a turn of the loop on a record cut by the end of the input raises the fault. -/
theorem streamNext_rleCutRecord {w : Work} {r : RleRecord} {n : Nat} (hphase : w.phase = .rle)
    (hwf : r.wf = true) (hpos : 1 ≤ n) (hcut : n < r.encoded.length)
    (hread : w.input.drop w.ip = r.encoded.take n) : streamNext w = .raised .valueOutOfRange := by
  obtain ⟨m, rfl⟩ : ∃ m, n = m + 1 := ⟨n - 1, by omega⟩
  cases r with
  | literal bytes =>
    obtain ⟨-, hhigh⟩ := RleRecord.wf_literal_iff.mp hwf
    rw [RleRecord.encoded, List.length_cons] at hcut
    rw [RleRecord.encoded, List.take_succ_cons] at hread
    rw [streamNext_rleLiteral hphase hhigh hread]
    apply rleLiteral_of_short
    rw [(getElem?_and_drop_of_drop_eq_cons hread).2, List.length_take, BitVec.toNat_ofNat]
    omega
  | run count byte =>
    obtain ⟨hlow, hhigh⟩ := RleRecord.wf_run_iff.mp hwf
    obtain rfl : m = 0 := by
      simp only [RleRecord.encoded, List.length_cons, List.length_nil] at hcut; omega
    rw [RleRecord.encoded, List.take_succ_cons, List.take_zero] at hread
    have hend : w.input[w.ip + 1]? = none :=
      List.getElem?_eq_none (List.drop_eq_nil_iff.mp (getElem?_and_drop_of_drop_eq_cons hread).2)
    rw [streamNext_rleReplicate hphase hlow hhigh hread]
    simp only [rleReplicate, hend]

end Sys2Proof.Machine

/-! ## RLE: a stream of records (44_rle.md R242, R247) -/

namespace Sys2Proof.Machine

theorem runStream_untilEnd_of_raised {w : Work} {e : Status} (h : streamNext w = .raised e) (fuel : Nat) :
    runStream untilEnd (fuel + 1) w = .raised e := by
  simp only [runStream, untilEnd, if_true, h]

/-- The decode loop over whole records: one turn for each. -/
theorem runStream_rleRecords (records : List RleRecord) (rest : Bytes) (fuel : Nat) : ∀ {w : Work},
    w.phase = .rle → records.all RleRecord.wf = true →
    w.input.drop w.ip = records.flatMap RleRecord.encoded ++ rest →
    runStream untilEnd (records.length + fuel) w = runStream untilEnd fuel (w.pastRleRecords records) := by
  induction records with
  | nil => intro w _ _ _; rw [List.length_nil, Nat.zero_add, Work.pastRleRecords_nil]
  | cons r records ih =>
    intro w hphase hwf hread
    rw [List.all_cons, Bool.and_eq_true] at hwf
    obtain ⟨hr, hrecords⟩ := hwf
    rw [List.flatMap_cons, List.append_assoc] at hread
    have hnext : (w.pastRleRecords [r]).input.drop (w.pastRleRecords [r]).ip =
        records.flatMap RleRecord.encoded ++ rest :=
      Work.drop_pastRleRecords (by rw [hread, List.flatMap_singleton])
    rw [List.length_cons, Nat.add_right_comm,
      runStream_untilEnd_of_running (streamNext_rleRecord hphase hr hread),
      ih (w := w.pastRleRecords [r]) hphase hrecords hnext, ← Work.pastRleRecords_cons]

/-- A whole command: after the records, at least one turn is left for what follows them. -/
theorem rleRun_records {records : List RleRecord} (rest : Bytes) (p : Option Params)
    (hwf : records.all RleRecord.wf = true) :
    ∃ fuel, rleRun (records.flatMap RleRecord.encoded ++ rest) p = runStream untilEnd (fuel + 1)
      ((rleStart (records.flatMap RleRecord.encoded ++ rest) p).pastRleRecords records) := by
  have hrecords := length_le_length_flatMap_encoded records
  obtain ⟨fuel, hfuel⟩ := Nat.exists_eq_add_of_le
    (Nat.le_trans hrecords (List.sublist_append_left _ rest).length_le)
  refine ⟨fuel, ?_⟩
  rw [rleRun, hfuel, Nat.add_assoc]
  exact runStream_rleRecords records rest (fuel + 1) rfl hwf rfl

/-- Settles O41: the loop runs over the whole records, and its next turn meets the cut one; the output so far
is not delivered. -/
theorem rleCutRecordFaults : Obligations.RleCutRecordFaults := by
  intro records r n p s hwf hr hpos hcut
  obtain ⟨fuel, hrun⟩ := rleRun_records (r.encoded.take n) p hwf
  have hfault := streamNext_rleCutRecord
    (w := (rleStart (records.flatMap RleRecord.encoded ++ r.encoded.take n) p).pastRleRecords records)
    rfl hr hpos hcut (Work.drop_pastRleRecords rfl)
  have hexec : exec (.rleDecode (some (records.flatMap RleRecord.encoded ++ r.encoded.take n)) p) s =
    deliver (rleRun (records.flatMap RleRecord.encoded ++ r.encoded.take n) p) s := rfl
  rw [hexec, hrun, runStream_untilEnd_of_raised hfault]
  rfl

end Sys2Proof.Machine

/-! ## The parameter port (10_state.md R36) and the command bytes (30_encoding.md R91 to R94) -/

namespace Sys2Proof

theorem Params.onPort_fits (q : Params) : q.onPort.fits = true := by
  have hall (v : Option Int) :
      (v.map (twosComplement Config.paramWidth)).all (fitsWidth Config.paramWidth) = true := by
    cases v with
    | none => rfl
    | some v => exact twosComplement_fits Config.paramWidth v
  simp only [Params.fits, Params.onPort, Config.stream, hall, Bool.and_self]

/-- R36: a record whose integers have the width of the port arrives as it is. -/
theorem Params.onPort_of_fits {q : Params} (h : q.fits = true) : q.onPort = q := by
  have hkeep (v : Option Int) (hv : v.all (fitsWidth Config.paramWidth) = true) :
      v.map (twosComplement Config.paramWidth) = v := by
    cases v with
    | none => rfl
    | some v => exact congrArg some (twosComplement_of_fits hv)
  simp only [Params.fits, Config.stream, Bool.and_eq_true] at h
  obtain ⟨⟨⟨⟨hpredictor, hcolors⟩, hbpc⟩, hcolumns⟩, hearly⟩ := h
  simp only [Params.onPort, Config.stream, hkeep _ hpredictor, hkeep _ hcolors, hkeep _ hbpc,
    hkeep _ hcolumns, hkeep _ hearly]

theorem map_onPort_of_fits {p : Option Params} (h : p.all (·.fits) = true) : p.map (·.onPort) = p := by
  cases p with
  | none => rfl
  | some q => exact congrArg some (Params.onPort_of_fits h)

/-- R91, R94: the byte of a unit and an operation decodes to that operation of that unit. -/
theorem decodeCommand_cmdByte (u : UnitId) (o : Op) (k : SinkId) (x : Option Bytes) (p : Option Params) :
    decodeCommand ⟨cmdByte u o, k, x, p⟩ =
      commandInstr u o ⟨cmdByte u o, k, x, p.map (·.onPort)⟩ := by
  have hunit : cmdUnit (cmdByte u o) = some u := by cases u <;> cases o <;> rfl
  have hzero : cmdZero (cmdByte u o) = 0 := by cases u <;> cases o <;> rfl
  have hop : cmdOp (cmdByte u o) = o := by cases u <;> cases o <;> rfl
  simp only [decodeCommand, hunit, hzero, if_true, hop]

/-- Settles O4: each of the twenty bytes is the byte of a unit and an operation, and the record goes through
the port. -/
theorem twentyCommandBytes : Obligations.TwentyCommandBytes := by
  refine ⟨fun q => ⟨q.onPort_fits, Params.onPort_of_fits⟩, ?_⟩
  rintro k x p _ rfl
  have hunit (u : UnitId) := fun o => decodeCommand_cmdByte u o k x p
  exact ⟨⟨hunit .hex .beginEncode, hunit .hex .encodeBlock, hunit .hex .endEncode, hunit .hex .decode⟩,
    ⟨hunit .a85 .beginEncode, hunit .a85 .encodeBlock, hunit .a85 .endEncode, hunit .a85 .decode⟩,
    ⟨hunit .flate .beginEncode, hunit .flate .encodeBlock, hunit .flate .endEncode, hunit .flate .decode⟩,
    ⟨hunit .rle .beginEncode, hunit .rle .encodeBlock, hunit .rle .endEncode, hunit .rle .decode⟩,
    ⟨hunit .lzw .beginEncode, hunit .lzw .encodeBlock, hunit .lzw .endEncode, hunit .lzw .decode⟩⟩

/-- R95: a byte outside the twenty decodes to the reserved command. -/
theorem decodeCommand_of_isReservedByte {w : CommandWord} (h : isReservedByte w.cmd = true) :
    decodeCommand w = .reservedCommand w.cmd := by
  have hw := w.cmd.isLt
  have hunit : (unitField w.cmd).toNat = w.cmd.toNat / 16 := by
    simp only [unitField, BitVec.extractLsb'_toNat, Nat.shiftRight_eq_div_pow]; omega
  have hzero : (zeroField w.cmd).toNat = cmdZero w.cmd := by
    simp only [zeroField, cmdZero, BitVec.extractLsb'_toNat, Nat.shiftRight_eq_div_pow]
  simp only [isReservedByte, hunit, Bool.or_eq_true, decide_eq_true_eq, bne_iff_ne] at h
  obtain h | h := h
  · exact decodeCommand_of_noUnit _ h
  · exact decodeCommand_of_zeroField_ne _ fun hz => h (BitVec.eq_of_toNat_eq (hzero.trans hz))

/-- A command byte that is not decoded to a command of a unit is reserved. -/
theorem isReservedByte_of_decode (cmd : Byte) :
    cmdUnit cmd = none ∨ cmdZero cmd ≠ 0 → isReservedByte cmd = true := by
  revert cmd; decide

end Sys2Proof

/-! ## The words of an instruction decode to it (30_encoding.md R91 to R106) -/

namespace Sys2Proof

theorem decodeBelow_eq_ok_iff {bound value : Nat} {i j : Instr} :
    decodeBelow bound value i = .ok j ↔ value < bound ∧ i = j := by
  unfold decodeBelow
  split <;> simp [*]

theorem orOutOfRange_eq_ok_iff {o : Option Instr} {i : Instr} : orOutOfRange o = .ok i ↔ o = some i := by
  cases o <;> simp [orOutOfRange]

/-- R96: a byte of a hex stream at the number of its bits. -/
theorem decode_hexChar {ctx : SymbolContext} (c : Byte) :
    decode ctx .hexChar (.symbol c.toNat) = .ok (decodeHexChar c) := by
  simp only [decode, BitVec.ofNat_toNat, BitVec.setWidth_eq, decodeBelow_eq_ok_iff]
  exact ⟨c.isLt, trivial⟩

/-- R98: a byte of an Ascii85 stream at the number of its bits. -/
theorem decode_a85Char {ctx : SymbolContext} (c : Byte) :
    decode ctx .a85Char (.symbol c.toNat) = .ok (decodeA85Char c) := by
  simp only [decode, BitVec.ofNat_toNat, BitVec.setWidth_eq, decodeBelow_eq_ok_iff]
  exact ⟨c.isLt, trivial⟩

/-- R105: a row tag at the number of its bits. -/
theorem decode_pngRow {ctx : SymbolContext} (t : Byte) :
    decode ctx .pngRow (.symbol t.toNat) = .ok (decodePngTag t) := by
  simp only [decode, BitVec.ofNat_toNat, BitVec.setWidth_eq, decodeBelow_eq_ok_iff]
  exact ⟨t.isLt, trivial⟩

theorem decodeHexChar_illegal {c : Byte} (hws : Config.wsHex.contains c = false) (hdigit : isHexDigit c = false) :
    decodeHexChar c = .hexIllegal c := by
  revert c; decide

theorem decodeA85Char_illegal {c : Byte} (hws : Config.wsA85 c = false) (hdigit : isA85Digit c = false)
    (hz : c ≠ 0x7A) (hend : c ≠ 0x7E) : decodeA85Char c = .a85Illegal c := by
  simp only [isA85Digit, Bool.and_eq_false_iff, decide_eq_false_iff_not] at hdigit
  simp only [decodeA85Char, Config.stream, hws, Bool.false_eq_true, if_false, hz, hend]
  rw [if_neg (by omega)]

theorem decodeA85Char_digit {c : Byte} (h : isA85Digit c = true) : decodeA85Char c = .a85Digit c := by
  simp only [isA85Digit, Bool.and_eq_true, decide_eq_true_eq] at h
  have hws : Config.wsA85 c = false := by
    simp only [Config.wsA85, Bool.or_eq_false_iff, decide_eq_false_iff_not, beq_eq_false_iff_ne]; omega
  simp only [decodeA85Char, Config.stream, hws, Bool.false_eq_true, if_false, h, and_self, if_true]

theorem decodeA85Char_skip {c : Byte} (h : Config.wsA85 c = true) : decodeA85Char c = .a85Skip c :=
  if_pos h

/-- R104: the class of a Predictor value. -/
theorem decodePredictor_undefined {v : Int} (h : isUndefinedPredictor v = true) :
    decodePredictor v = .predictorUndefined v := by
  simp only [isUndefinedPredictor, Bool.or_eq_true, Bool.and_eq_true, decide_eq_true_eq] at h
  rw [decodePredictor, if_neg (by omega), if_neg (by omega), if_pos (by omega)]

theorem decodePredictor_png {v : Int} (h : 10 ≤ v) : decodePredictor v = .predictorPng v := by
  rw [decodePredictor, if_neg (by omega), if_neg (by omega), if_neg (by omega)]

/-- R104: the bits of a Predictor value are read in the class of the value. -/
theorem decode_predictor {ctx : SymbolContext} {v : Int} (h : fitsWidth Config.paramWidth v = true) :
    decode ctx .predictor (.symbol (paramBits Config.paramWidth v)) = .ok (decodePredictor v) := by
  simp only [decode, Config.stream, decodeBelow_eq_ok_iff, twosComplement_paramBits h]
  exact ⟨(paramBits_spec _ v).1, trivial⟩

theorem decodePngTag_illegal {t : Byte} (h : 5 ≤ t.toNat) : decodePngTag t = .pngTagIllegal t := by
  unfold decodePngTag
  split <;> first | omega | rfl

/-- R310: the four bytes of a checksum, the most significant in the low bits, decode to it. -/
theorem decodeTrailer_bytes (a : BitVec 32) {b0 b1 b2 b3 v : Nat} (hb0 : b0 = a.toNat / 16777216)
    (hb1 : b1 = a.toNat / 65536 % 256) (hb2 : b2 = a.toNat / 256 % 256) (hb3 : b3 = a.toNat % 256)
    (hv : v = b0 + 256 * b1 + 65536 * b2 + 16777216 * b3) :
    v < 4294967296 ∧ decodeTrailer (BitVec.ofNat 8 v) (BitVec.ofNat 8 (v / 256)) (BitVec.ofNat 8 (v / 65536))
      (BitVec.ofNat 8 (v / 16777216)) = .zlibTrailer a := by
  have hbyte (m n : Nat) (h : m % 256 = n % 256) : BitVec.ofNat 8 m = BitVec.ofNat 8 n :=
    BitVec.eq_of_toNat_eq (by simpa only [BitVec.toNat_ofNat] using h)
  have hlt0 : b0 < 256 := by have := a.isLt; omega
  have hlt1 : b1 < 256 := by omega
  have hlt2 : b2 < 256 := by omega
  have hlt3 : b3 < 256 := by omega
  refine ⟨by clear hb0 hb1 hb2 hb3; omega, ?_⟩
  have h0 : v % 256 = b0 := by clear hb0 hb1 hb2 hb3; omega
  have h1 : v / 256 % 256 = b1 := by clear hb0 hb1 hb2 hb3; omega
  have h2 : v / 65536 % 256 = b2 := by clear hb0 hb1 hb2 hb3; omega
  have h3 : v / 16777216 % 256 = b3 := by clear hb0 hb1 hb2 hb3; omega
  rw [decodeTrailer, hbyte v (a.toNat / 16777216) (by omega), hbyte (v / 256) (a.toNat / 65536) (by omega),
    hbyte (v / 65536) (a.toNat / 256) (by omega), hbyte (v / 16777216) a.toNat (by omega),
    Machine.unpack32_append]

/-- R102: an LZW code at the number of its bits. -/
theorem decode_lzwCode {ctx : SymbolContext} {c : BitVec 12} :
    decode ctx .lzwCode (.symbol c.toNat) = .ok (decodeLzwCode ctx.tableSize ctx.hasPrev c) := by
  simp only [decode, BitVec.ofNat_toNat, BitVec.setWidth_eq, decodeBelow_eq_ok_iff]
  exact ⟨c.isLt, trivial⟩

/-- R91, R94: the word of an operation decodes to it, each operand at its value. -/
theorem decode_cmdWord {ctx : SymbolContext} (u : UnitId) (o : Op) (k : SinkId) (x : Option Bytes)
    {p : Option Params} (hp : p.all (·.fits) = true) :
    decode ctx .cmd (.command ⟨cmdByte u o, k, x, p⟩) = .ok (commandInstr u o ⟨cmdByte u o, k, x, p⟩) := by
  rw [decode, decodeCommand_cmdByte, map_onPort_of_fits hp]

/-- R137: the three digit classes of a hex stream. -/
theorem decode_hexDigit09 : ∀ v : BitVec 4, v.toNat ≤ 9 →
    decodeHexChar (BitVec.ofNat 8 (0x30 + v.toNat)) = .hexDigit09 v := by decide

theorem decode_hexDigitUpper : ∀ v : BitVec 3, 1 ≤ v.toNat ∧ v.toNat ≤ 6 →
    decodeHexChar (BitVec.ofNat 8 (0x40 + v.toNat)) = .hexDigitUpper v := by decide

theorem decode_hexDigitLower : ∀ v : BitVec 3, 1 ≤ v.toNat ∧ v.toNat ≤ 6 →
    decodeHexChar (BitVec.ofNat 8 (0x60 + v.toNat)) = .hexDigitLower v := by decide

/-- R293: the three bits of a block header, BFINAL first. -/
theorem decode_deflateBlk {ctx : SymbolContext} {btype v : Nat} (bfinal : Bool) (hbtype : btype < 4)
    (hv : v = 2 * btype + bfinal.toNat) :
    decode ctx .deflateBlk (.symbol v) = .ok (decodeBlockHeader bfinal btype) := by
  have hbit := bfinal.toNat_lt
  have htype : v / 2 = btype := by omega
  have hfinal : (v % 2 == 1) = bfinal := by
    rw [show v % 2 = bfinal.toNat by omega]; cases bfinal <;> rfl
  rw [decode, hfinal, htype, decodeBelow_eq_ok_iff]
  exact ⟨by omega, rfl⟩

/-- Settles O1: one case for each constructor, by the lemma of its language. -/
theorem decodeEncodeRoundTrip : Obligations.DecodeEncodeRoundTrip := by
  intro ctx i hwf hfits
  cases i with
  | hexBeginEncode k => exact decode_cmdWord .hex .beginEncode k none (p := none) rfl
  | hexEncodeBlock x => exact decode_cmdWord .hex .encodeBlock 0 x (p := none) rfl
  | hexEndEncode => exact decode_cmdWord .hex .endEncode 0 none (p := none) rfl
  | hexDecode x p => exact decode_cmdWord .hex .decode 0 x hwf
  | a85BeginEncode k => exact decode_cmdWord .a85 .beginEncode k none (p := none) rfl
  | a85EncodeBlock x => exact decode_cmdWord .a85 .encodeBlock 0 x (p := none) rfl
  | a85EndEncode => exact decode_cmdWord .a85 .endEncode 0 none (p := none) rfl
  | a85Decode x p => exact decode_cmdWord .a85 .decode 0 x hwf
  | flateBeginEncode k => exact decode_cmdWord .flate .beginEncode k none (p := none) rfl
  | flateEncodeBlock x => exact decode_cmdWord .flate .encodeBlock 0 x (p := none) rfl
  | flateEndEncode => exact decode_cmdWord .flate .endEncode 0 none (p := none) rfl
  | flateDecode x p => exact decode_cmdWord .flate .decode 0 x hwf
  | rleBeginEncode k => exact decode_cmdWord .rle .beginEncode k none (p := none) rfl
  | rleEncodeBlock x => exact decode_cmdWord .rle .encodeBlock 0 x (p := none) rfl
  | rleEndEncode => exact decode_cmdWord .rle .endEncode 0 none (p := none) rfl
  | rleDecode x p => exact decode_cmdWord .rle .decode 0 x hwf
  | lzwBeginEncode k => exact decode_cmdWord .lzw .beginEncode k none (p := none) rfl
  | lzwEncodeBlock x => exact decode_cmdWord .lzw .encodeBlock 0 x (p := none) rfl
  | lzwEndEncode => exact decode_cmdWord .lzw .endEncode 0 none (p := none) rfl
  | lzwDecode x p => exact decode_cmdWord .lzw .decode 0 x hwf
  | reservedCommand c => exact congrArg Except.ok (decodeCommand_of_isReservedByte (w := ⟨c, 0, none, none⟩) hwf)
  | hexWhitespace c => exact (decode_hexChar c).trans (congrArg Except.ok (if_pos hwf))
  | hexDigit09 v =>
    simp only [Instr.wf, decide_eq_true_eq] at hwf
    exact decodeBelow_eq_ok_iff.mpr ⟨by omega, decode_hexDigit09 v hwf⟩
  | hexDigitUpper v =>
    simp only [Instr.wf, Bool.and_eq_true, decide_eq_true_eq] at hwf
    exact decodeBelow_eq_ok_iff.mpr ⟨by omega, decode_hexDigitUpper v hwf⟩
  | hexDigitLower v =>
    simp only [Instr.wf, Bool.and_eq_true, decide_eq_true_eq] at hwf
    exact decodeBelow_eq_ok_iff.mpr ⟨by omega, decode_hexDigitLower v hwf⟩
  | hexIllegal c =>
    simp only [Instr.wf, Bool.and_eq_true, Bool.not_eq_true'] at hwf
    exact (decode_hexChar c).trans (congrArg Except.ok (decodeHexChar_illegal hwf.1 hwf.2))
  | hexEndOfInput | a85EndOfData => rfl
  | a85Skip c => exact (decode_a85Char c).trans (congrArg Except.ok (decodeA85Char_skip hwf))
  | a85Digit c => exact (decode_a85Char c).trans (congrArg Except.ok (decodeA85Char_digit hwf))
  | a85Z | a85Terminator => rfl
  | a85Illegal c =>
    simp only [Instr.wf, Bool.and_eq_true, Bool.not_eq_true', bne_iff_ne] at hwf
    obtain ⟨⟨⟨hws, hdigit⟩, hz⟩, hend⟩ := hwf
    exact (decode_a85Char c).trans (congrArg Except.ok (decodeA85Char_illegal hws hdigit hz hend))
  | rleLiteral n =>
    have hn := n.isLt
    refine decodeBelow_eq_ok_iff.mpr ⟨by omega, ?_⟩
    rw [Machine.decodeRleControl_literal (by omega), BitVec.ofNat_toNat, BitVec.setWidth_eq]
  | rleEod => rfl
  | rleReplicate n =>
    have hn := n.isLt
    have hpos : n.toNat ≠ 0 := fun h => by
      simp only [Instr.wf, bne_iff_ne] at hwf; exact hwf (BitVec.eq_of_toNat_eq h)
    refine decodeBelow_eq_ok_iff.mpr ⟨by omega, ?_⟩
    rw [Machine.decodeRleControl_replicate (by omega) (by omega), BitVec.ofNat_toNat, BitVec.setWidth_eq]
  | lzwClear | lzwEod => rfl
  | lzwKnown c =>
    simp only [Instr.wf, Bool.and_eq_true, bne_iff_ne] at hwf
    simp only [Instr.fits, decide_eq_true_eq] at hfits
    refine decode_lzwCode.trans (congrArg Except.ok ?_)
    rw [decodeLzwCode, Config.lzwClear, Config.lzwEod, if_neg hwf.1, if_neg hwf.2, if_pos hfits]
  | lzwNotYetDefined c =>
    simp only [Instr.wf, decide_eq_true_eq] at hwf
    simp only [Instr.fits, Bool.and_eq_true, beq_iff_eq] at hfits
    refine decode_lzwCode.trans (congrArg Except.ok ?_)
    rw [decodeLzwCode, Config.lzwClear, Config.lzwEod, if_neg (by omega), if_neg (by omega), if_neg (by omega),
      if_pos hfits]
  | lzwIllegal c =>
    simp only [Instr.wf, decide_eq_true_eq] at hwf
    simp only [Instr.fits, Bool.or_eq_true, Bool.and_eq_true, decide_eq_true_eq, beq_iff_eq,
      Bool.not_eq_true'] at hfits
    refine decode_lzwCode.trans (congrArg Except.ok ?_)
    have hnext : ¬ (c.toNat = ctx.tableSize ∧ ctx.hasPrev = true) := by
      rintro ⟨hsize, hprev⟩
      rw [hprev] at hfits
      obtain hlt | ⟨-, hfalse⟩ := hfits
      · omega
      · cases hfalse
    rw [decodeLzwCode, Config.lzwClear, Config.lzwEod, if_neg (by omega), if_neg (by omega), if_neg (by omega),
      if_neg hnext]
  | predictorNone => exact decode_predictor hwf
  | predictorTiff => exact decode_predictor hwf
  | predictorPng v =>
    simp only [Instr.wf, Bool.and_eq_true, decide_eq_true_eq] at hwf
    exact (decode_predictor hwf.2).trans (congrArg Except.ok (decodePredictor_png hwf.1))
  | predictorUndefined v =>
    simp only [Instr.wf, Bool.and_eq_true] at hwf
    exact (decode_predictor hwf.2).trans (congrArg Except.ok (decodePredictor_undefined hwf.1))
  | pngTagNone | pngTagSub | pngTagUp | pngTagAverage | pngTagPaeth => rfl
  | pngTagIllegal t =>
    exact (decode_pngRow t).trans (congrArg Except.ok (decodePngTag_illegal (of_decide_eq_true hwf)))
  | zlibHeader cmf flg =>
    have hcmf := cmf.isLt
    have hflg := flg.isLt
    refine decodeBelow_eq_ok_iff.mpr ⟨by omega, ?_⟩
    congr 1 <;> apply BitVec.eq_of_toNat_eq <;> simp only [BitVec.toNat_ofNat] <;> omega
  | deflateBlockStored f => exact decode_deflateBlk (btype := 0) f (by omega) (by omega)
  | deflateBlockFixed f => exact decode_deflateBlk (btype := 1) f (by omega) rfl
  | deflateBlockDynamic f => exact decode_deflateBlk (btype := 2) f (by omega) rfl
  | deflateBlockIllegal f => exact decode_deflateBlk (btype := 3) f (by omega) rfl
  | deflateCodelenLiteral l =>
    have hl := l.isLt
    refine orOutOfRange_eq_ok_iff.mpr ?_
    refine (if_pos (by omega)).trans ?_
    rw [BitVec.ofNat_toNat, BitVec.setWidth_eq]
  | deflateCodelen16 | deflateCodelen17 | deflateCodelen18 => rfl
  | deflateSymLiteral b =>
    refine orOutOfRange_eq_ok_iff.mpr ?_
    rw [decodeLitLen, if_pos b.isLt, BitVec.ofNat_toNat, BitVec.setWidth_eq]
  | deflateSymEndOfBlock => rfl
  | deflateSymLength sym =>
    simp only [Instr.wf, Bool.and_eq_true, decide_eq_true_eq] at hwf
    refine orOutOfRange_eq_ok_iff.mpr ?_
    rw [decodeLitLen, if_neg (by omega), if_neg (by omega), if_pos hwf.2, BitVec.ofNat_toNat, BitVec.setWidth_eq]
  | deflateSymDistance d =>
    refine orOutOfRange_eq_ok_iff.mpr ?_
    rw [decodeDistance, if_pos (of_decide_eq_true hwf), BitVec.ofNat_toNat, BitVec.setWidth_eq]
  | deflateSymIllegal sym =>
    simp only [Instr.wf, Bool.or_eq_true, beq_iff_eq] at hwf
    by_cases hlit : 286 ≤ sym.toNat
    · simp only [encode, if_pos hlit, decode, orOutOfRange_eq_ok_iff]
      rw [decodeLitLen, if_neg (by omega), if_neg (by omega), if_neg (by omega), if_pos (by omega),
        BitVec.ofNat_toNat, BitVec.setWidth_eq]
    · simp only [encode, if_neg hlit, decode, orOutOfRange_eq_ok_iff]
      rw [decodeDistance, if_neg (by omega), if_pos (by omega), BitVec.ofNat_toNat, BitVec.setWidth_eq]
  | zlibTrailer a => exact decodeBelow_eq_ok_iff.mpr (decodeTrailer_bytes a rfl rfl rfl rfl rfl)

end Sys2Proof

/-! ## What is decoded encodes to its bits again, and is well-formed (30_encoding.md R95 to R106) -/

namespace Sys2Proof

/-- R95, R96: what a decoder gives for the symbol `v` of the language `f`: it encodes to the symbol again, it is
well-formed, and as an LZW code it is of the class that the decoder state `ctx` gives it. -/
structure IsReadingOf (ctx : SymbolContext) (f : Format) (v : Nat) (i : Instr) : Prop where
  encode : encode i = (f, .symbol v)
  wf : 258 ≤ ctx.tableSize → i.wf = true
  fits : i.fits ctx = true

theorem isReadingOf_decodeHexChar (ctx : SymbolContext) (c : Byte) :
    IsReadingOf ctx .hexChar c.toNat (decodeHexChar c) := by
  have hc := c.isLt
  have hencode : encode (decodeHexChar c) = (.hexChar, .symbol c.toNat) := by revert c; decide
  have hwf : (decodeHexChar c).wf = true := by revert c; decide
  refine ⟨hencode, fun _ => hwf, ?_⟩
  unfold decodeHexChar
  (repeat' split) <;> rfl

theorem isReadingOf_decodeA85Char (ctx : SymbolContext) (c : Byte) :
    IsReadingOf ctx .a85Char c.toNat (decodeA85Char c) := by
  unfold decodeA85Char
  repeat' split
  next hskip =>
    exact ⟨rfl, fun _ => hskip, rfl⟩
  next hdigit =>
    exact ⟨rfl, fun _ => by simpa [Instr.wf, isA85Digit] using hdigit, rfl⟩
  next hz =>
    exact ⟨by rw [hz]; rfl, fun _ => rfl, rfl⟩
  next hend =>
    exact ⟨by rw [hend]; rfl, fun _ => rfl, rfl⟩
  next hskip hdigit hz hend =>
    refine ⟨rfl, fun _ => ?_, rfl⟩
    simp only [Instr.wf, isA85Digit, Bool.and_eq_true, Bool.not_eq_true', Bool.and_eq_false_iff,
      decide_eq_false_iff_not, bne_iff_ne]
    exact ⟨⟨⟨by simpa using hskip, by omega⟩, hz⟩, hend⟩

theorem isReadingOf_decodeRleControl (ctx : SymbolContext) (c : Byte) :
    IsReadingOf ctx .rleCtl c.toNat (decodeRleControl c) := by
  have hencode : encode (decodeRleControl c) = (.rleCtl, .symbol c.toNat) := by revert c; decide
  have hwf : (decodeRleControl c).wf = true := by revert c; decide
  refine ⟨hencode, fun _ => hwf, ?_⟩
  unfold decodeRleControl
  (repeat' split) <;> rfl

theorem isReadingOf_decodeLzwCode (ctx : SymbolContext) (c : BitVec 12) :
    IsReadingOf ctx .lzwCode c.toNat (decodeLzwCode ctx.tableSize ctx.hasPrev c) := by
  unfold decodeLzwCode
  rw [Config.lzwClear, Config.lzwEod]
  repeat' split
  next hclear =>
    exact ⟨by rw [hclear]; rfl, fun _ => rfl, rfl⟩
  next heod =>
    exact ⟨by rw [heod]; rfl, fun _ => rfl, rfl⟩
  next hclear heod hknown =>
    exact ⟨rfl, fun _ => by simp [Instr.wf, hclear, heod], by simpa [Instr.fits] using hknown⟩
  next hnext =>
    refine ⟨rfl, fun hsize => ?_, by simpa [Instr.fits] using hnext⟩
    simp only [Instr.wf, decide_eq_true_eq]; omega
  next hclear heod hknown hnext =>
    refine ⟨rfl, fun hsize => ?_, ?_⟩
    · simp only [Instr.wf, decide_eq_true_eq]; omega
    · simp only [Instr.fits, Bool.or_eq_true, Bool.and_eq_true, decide_eq_true_eq, beq_iff_eq, Bool.not_eq_true']
      by_cases hsize : c.toNat = ctx.tableSize
      · exact .inr ⟨hsize, by simpa [hsize] using hnext⟩
      · exact .inl (by omega)

theorem isReadingOf_decodePredictor (ctx : SymbolContext) {v : Nat} (hv : v < 2 ^ Config.paramWidth) :
    IsReadingOf ctx .predictor v (decodePredictor (twosComplement Config.paramWidth v)) := by
  have hbits := paramBits_twosComplement hv
  have hfits := twosComplement_fits Config.paramWidth v
  generalize twosComplement Config.paramWidth v = x at hbits hfits
  subst hbits
  unfold decodePredictor
  repeat' split
  next hnone =>
    subst hnone; exact ⟨rfl, fun _ => rfl, rfl⟩
  next htiff =>
    subst htiff; exact ⟨rfl, fun _ => rfl, rfl⟩
  next hnone htiff hundefined =>
    refine ⟨rfl, fun _ => ?_, rfl⟩
    simp only [Instr.wf, isUndefinedPredictor, Bool.and_eq_true, Bool.or_eq_true, decide_eq_true_eq]
    exact ⟨by omega, hfits⟩
  · refine ⟨rfl, fun _ => ?_, rfl⟩
    simp only [Instr.wf, Bool.and_eq_true, decide_eq_true_eq]
    exact ⟨by omega, hfits⟩

theorem isReadingOf_decodePngTag (ctx : SymbolContext) (t : Byte) :
    IsReadingOf ctx .pngRow t.toNat (decodePngTag t) := by
  unfold decodePngTag
  split
  case h_6 h0 h1 h2 h3 h4 =>
    have hne : t.toNat ≠ 0 ∧ t.toNat ≠ 1 ∧ t.toNat ≠ 2 ∧ t.toNat ≠ 3 ∧ t.toNat ≠ 4 := ⟨h0, h1, h2, h3, h4⟩
    exact ⟨rfl, fun _ => decide_eq_true (by omega), rfl⟩
  all_goals rename_i htag; exact ⟨by rw [htag]; rfl, fun _ => rfl, rfl⟩

theorem isReadingOf_zlibHeader (ctx : SymbolContext) {v : Nat} (hv : v < 65536) :
    IsReadingOf ctx .zlibHdr v (.zlibHeader (BitVec.ofNat 8 v) (BitVec.ofNat 8 (v / 256))) := by
  refine ⟨?_, fun _ => rfl, rfl⟩
  have hbytes : (BitVec.ofNat 8 v).toNat + 256 * (BitVec.ofNat 8 (v / 256)).toNat = v := by
    simp only [BitVec.toNat_ofNat]; omega
  rw [encode, hbytes]

theorem isReadingOf_decodeBlockHeader (ctx : SymbolContext) {v : Nat} (hv : v < 8) :
    IsReadingOf ctx .deflateBlk v (decodeBlockHeader (v % 2 == 1) (v / 2)) := by
  have hfinal : (v % 2 == 1).toNat = v % 2 := by
    obtain h | h := Nat.mod_two_eq_zero_or_one v <;> rw [h] <;> rfl
  unfold decodeBlockHeader
  split
  case h_4 h0 h1 h2 =>
    have hne : v / 2 ≠ 0 ∧ v / 2 ≠ 1 ∧ v / 2 ≠ 2 := ⟨h0, h1, h2⟩
    refine ⟨?_, fun _ => rfl, rfl⟩
    rw [encode, hfinal]
    congr 2
    omega
  all_goals
    refine ⟨?_, fun _ => rfl, rfl⟩
    rw [encode, hfinal]
    congr 2
    omega

theorem isReadingOf_decodeCodelen (ctx : SymbolContext) {v : Nat} {i : Instr} (h : decodeCodelen v = some i) :
    IsReadingOf ctx .deflateCl v i := by
  unfold decodeCodelen at h
  split at h
  · cases h
    refine ⟨?_, fun _ => rfl, rfl⟩
    rw [encode, BitVec.toNat_ofNat, Nat.mod_eq_of_lt (by omega)]
  · split at h <;> cases h <;> exact ⟨rfl, fun _ => rfl, rfl⟩

theorem isReadingOf_decodeLitLen (ctx : SymbolContext) {v : Nat} {i : Instr} (h : decodeLitLen v = some i) :
    IsReadingOf ctx .deflateLitLen v i := by
  have hsym : v ≤ 287 → (BitVec.ofNat 9 v).toNat = v := fun _ => by
    rw [BitVec.toNat_ofNat, Nat.mod_eq_of_lt (by omega)]
  unfold decodeLitLen at h
  repeat' split at h
  all_goals cases h
  · refine ⟨?_, fun _ => rfl, rfl⟩
    rw [encode, BitVec.toNat_ofNat, Nat.mod_eq_of_lt (by omega)]
  next hend =>
    exact ⟨by rw [hend]; rfl, fun _ => rfl, rfl⟩
  · refine ⟨by rw [encode, hsym (by omega)], fun _ => ?_, rfl⟩
    simp only [Instr.wf, hsym (by omega), Bool.and_eq_true, decide_eq_true_eq]
    omega
  next hillegal =>
    refine ⟨by rw [encode, hsym hillegal, if_pos (by omega)], fun _ => ?_, rfl⟩
    simp only [Instr.wf, hsym hillegal, Bool.or_eq_true, beq_iff_eq]
    omega

theorem isReadingOf_decodeDistance (ctx : SymbolContext) {v : Nat} {i : Instr} (h : decodeDistance v = some i) :
    IsReadingOf ctx .deflateDist v i := by
  unfold decodeDistance at h
  repeat' split at h
  all_goals cases h
  next hdistance =>
    have hsym : (BitVec.ofNat 5 v).toNat = v := by rw [BitVec.toNat_ofNat, Nat.mod_eq_of_lt (by omega)]
    exact ⟨by rw [encode, hsym], fun _ => by rw [Instr.wf, hsym]; exact decide_eq_true hdistance, rfl⟩
  · have hsym : (BitVec.ofNat 9 v).toNat = v := by rw [BitVec.toNat_ofNat, Nat.mod_eq_of_lt (by omega)]
    refine ⟨by rw [encode, hsym, if_neg (by omega)], fun _ => ?_, rfl⟩
    simp only [Instr.wf, hsym, Bool.or_eq_true, beq_iff_eq]
    omega

theorem isReadingOf_decodeTrailer (ctx : SymbolContext) {v b0 b1 b2 b3 : Nat} (hv : v < 4294967296)
    (hb0 : b0 = v % 256) (hb1 : b1 = v / 256 % 256) (hb2 : b2 = v / 65536 % 256) (hb3 : b3 = v / 16777216) :
    IsReadingOf ctx .zlibTrl v (decodeTrailer (BitVec.ofNat 8 v) (BitVec.ofNat 8 (v / 256))
      (BitVec.ofNat 8 (v / 65536)) (BitVec.ofNat 8 (v / 16777216))) := by
  refine ⟨?_, fun _ => rfl, rfl⟩
  have hvalue : v = b0 + 256 * b1 + 65536 * b2 + 16777216 * b3 := by omega
  have ha : (BitVec.ofNat 8 v ++ BitVec.ofNat 8 (v / 256) ++ BitVec.ofNat 8 (v / 65536)
      ++ BitVec.ofNat 8 (v / 16777216)).toNat = 16777216 * b0 + 65536 * b1 + 256 * b2 + b3 := by
    simp only [BitVec.toNat_append, BitVec.toNat_ofNat]
    rw [← Nat.shiftLeft_add_eq_or_of_lt (by omega), ← Nat.shiftLeft_add_eq_or_of_lt (by omega),
      ← Nat.shiftLeft_add_eq_or_of_lt (by omega)]
    simp only [Nat.shiftLeft_eq]
    omega
  have hlt0 : b0 < 256 := by omega
  have hlt1 : b1 < 256 := by omega
  have hlt2 : b2 < 256 := by omega
  have hlt3 : b3 < 256 := by omega
  rw [decodeTrailer, encode, ha, hvalue]
  clear hb0 hb1 hb2 hb3 ha hvalue
  have h0 : (16777216 * b0 + 65536 * b1 + 256 * b2 + b3) / 16777216 = b0 := by omega
  have h1 : (16777216 * b0 + 65536 * b1 + 256 * b2 + b3) / 65536 % 256 = b1 := by omega
  have h2 : (16777216 * b0 + 65536 * b1 + 256 * b2 + b3) / 256 % 256 = b2 := by omega
  have h3 : (16777216 * b0 + 65536 * b1 + 256 * b2 + b3) % 256 = b3 := by omega
  rw [h0, h1, h2, h3]

/-- R95, R96: whatever `decode` reads from a symbol is a reading of it. -/
theorem isReadingOf_of_decode {ctx : SymbolContext} {f : Format} {v : Nat} {i : Instr}
    (h : decode ctx f (.symbol v) = .ok i) : IsReadingOf ctx f v i := by
  have hbyte {b : Nat} (hb : b < 256) : (BitVec.ofNat 8 b).toNat = b := by
    rw [BitVec.toNat_ofNat, Nat.mod_eq_of_lt hb]
  cases f with
  | cmd => cases h
  | hexChar =>
    obtain ⟨hv, rfl⟩ := decodeBelow_eq_ok_iff.mp h
    simpa only [hbyte hv] using isReadingOf_decodeHexChar ctx (BitVec.ofNat 8 v)
  | a85Char =>
    obtain ⟨hv, rfl⟩ := decodeBelow_eq_ok_iff.mp h
    simpa only [hbyte hv] using isReadingOf_decodeA85Char ctx (BitVec.ofNat 8 v)
  | rleCtl =>
    obtain ⟨hv, rfl⟩ := decodeBelow_eq_ok_iff.mp h
    simpa only [hbyte hv] using isReadingOf_decodeRleControl ctx (BitVec.ofNat 8 v)
  | lzwCode =>
    obtain ⟨hv, rfl⟩ := decodeBelow_eq_ok_iff.mp h
    have hcode : (BitVec.ofNat 12 v).toNat = v := by rw [BitVec.toNat_ofNat, Nat.mod_eq_of_lt hv]
    simpa only [hcode] using isReadingOf_decodeLzwCode ctx (BitVec.ofNat 12 v)
  | predictor =>
    obtain ⟨hv, rfl⟩ := decodeBelow_eq_ok_iff.mp h
    exact isReadingOf_decodePredictor ctx hv
  | pngRow =>
    obtain ⟨hv, rfl⟩ := decodeBelow_eq_ok_iff.mp h
    simpa only [hbyte hv] using isReadingOf_decodePngTag ctx (BitVec.ofNat 8 v)
  | zlibHdr =>
    obtain ⟨hv, rfl⟩ := decodeBelow_eq_ok_iff.mp h
    exact isReadingOf_zlibHeader ctx hv
  | deflateBlk =>
    obtain ⟨hv, rfl⟩ := decodeBelow_eq_ok_iff.mp h
    exact isReadingOf_decodeBlockHeader ctx hv
  | deflateCl => exact isReadingOf_decodeCodelen ctx (orOutOfRange_eq_ok_iff.mp h)
  | deflateLitLen => exact isReadingOf_decodeLitLen ctx (orOutOfRange_eq_ok_iff.mp h)
  | deflateDist => exact isReadingOf_decodeDistance ctx (orOutOfRange_eq_ok_iff.mp h)
  | zlibTrl =>
    obtain ⟨hv, rfl⟩ := decodeBelow_eq_ok_iff.mp h
    exact isReadingOf_decodeTrailer ctx hv rfl rfl rfl rfl

/-- Settles O2: a reading of a symbol encodes to it. -/
theorem encodeDecodeRoundTripForSymbols : Obligations.EncodeDecodeRoundTripForSymbols :=
  fun _ _ _ _ h => (isReadingOf_of_decode h).encode

theorem wf_commandInstr (u : UnitId) (o : Op) {c : CommandWord} (hp : c.params.all (·.fits) = true) :
    (commandInstr u o c).wf = true := by
  cases u <;> cases o <;> first | rfl | exact hp

theorem fits_commandInstr (ctx : SymbolContext) (u : UnitId) (o : Op) (c : CommandWord) :
    (commandInstr u o c).fits ctx = true := by
  cases u <;> cases o <;> rfl

/-- R91 to R95: a command word decodes to a command whose record has been through the port, or to the reserved
command of a reserved byte. -/
theorem decodeCommand_cases (w : CommandWord) :
    (∃ u, decodeCommand w = commandInstr u (cmdOp w.cmd) { w with params := w.params.map (·.onPort) }) ∨
    (isReservedByte w.cmd = true ∧ decodeCommand w = .reservedCommand w.cmd) := by
  unfold decodeCommand
  split
  next hunit => exact .inr ⟨isReservedByte_of_decode w.cmd (.inl hunit), rfl⟩
  next u hunit =>
    repeat' split
    · exact .inl ⟨u, rfl⟩
    next hzero =>
      exact .inr ⟨isReservedByte_of_decode w.cmd (.inr hzero), rfl⟩

/-- R36, R95: a command word stands for a well-formed instruction. -/
theorem wf_decodeCommand (ctx : SymbolContext) (w : CommandWord) :
    (decodeCommand w).wf = true ∧ (decodeCommand w).fits ctx = true := by
  obtain ⟨u, h⟩ | ⟨hreserved, h⟩ := decodeCommand_cases w
  · rw [h]
    refine ⟨wf_commandInstr u _ ?_, fits_commandInstr ctx u _ _⟩
    cases hp : w.params with
    | none => rfl
    | some q => exact q.onPort_fits
  · rw [h]
    exact ⟨hreserved, rfl⟩

/-- Settles O3: command words by the fields of the command byte, symbols by their readings, and the two rows
without a byte. -/
theorem decodedInstructionsAreWellFormed : Obligations.DecodedInstructionsAreWellFormed := by
  intro ctx f e i hsize h
  cases e with
  | command w =>
    cases f with
    | cmd => cases h; exact wf_decodeCommand ctx w
    | _ => cases h
  | symbol v => exact ⟨(isReadingOf_of_decode h).wf hsize, (isReadingOf_of_decode h).fits⟩
  | noByte => cases f <;> cases h <;> exact ⟨rfl, rfl⟩

end Sys2Proof

/-! ## One step: between commands and in a running decode (20_memory.md R79, 30_encoding.md R117) -/

namespace Sys2Proof.Machine

/-- R102: a command is in every decoder state of its class. -/
theorem fits_of_encode_cmd {i : Instr} {e : Encoded} (h : encode i = (.cmd, e)) (ctx : SymbolContext) :
    i.fits ctx = true := by
  cases i <;> first | rfl | cases h

/-- R79: between commands, a command at the head of the port is taken from it and run. -/
theorem step_command {s : State} {w : CommandWord} {rest : List HostEvent} (hidle : s.work.phase = .idle)
    (hport : s.port = .command w :: rest) : step s = exec (decodeCommand w) { s with port := rest } := by
  obtain ⟨hnil, -⟩ | ⟨rest', hreset, -⟩ | ⟨c, rest', hcommand, hstep⟩ := step_idle hidle
  · simp [hport] at hnil
  · simp [hport] at hreset
  · obtain ⟨rfl, rfl⟩ : w = c ∧ rest = rest' := by simpa [hport] using hcommand
    exact hstep

/-- Settles O7: the port's word is decoded, and the word of a well-formed command decodes to it. -/
theorem stepRunsTheIssuedCommand : Obligations.StepRunsTheIssuedCommand := by
  intro s w rest hidle hport
  refine ⟨step_command hidle hport, fun i hwf hencode => ?_⟩
  have hdecode := decodeEncodeRoundTrip freshContext i hwf (fits_of_encode_cmd hencode _)
  rw [hencode] at hdecode
  obtain rfl : decodeCommand w = i := Except.ok.inj hdecode
  exact step_command hidle hport

/-- R5: in a running decode, a step is the meaning of the symbol that is fetched. -/
theorem step_of_fetch_symbol {s : State} {i : Instr} {w : Work} (h : fetch s.work = .symbol i w)
    (hphase : s.work.phase ≠ .idle) : step s = exec i { s with work := w } := by
  unfold step stepBy
  rw [if_neg hphase, parameters_stream, h]

/-- Settles O8: `step` fetches once; the byte languages read the byte at the cursor. -/
theorem stepRunsTheFetchedSymbol : Obligations.StepRunsTheFetchedSymbol := by
  intro s hphase
  have hbyte (i : Instr) (w : Work) (h : fetch s.work = .symbol i w) : step s = exec i { s with work := w } :=
    step_of_fetch_symbol h hphase
  refine ⟨hbyte, fun h => ?_, fun e h => ?_, fun c hp hc => hbyte _ _ ?_, fun c hp hc => hbyte _ _ ?_,
    fun c hp hc => hbyte _ _ ?_, fun c hp hc => hbyte _ _ ?_⟩
  · rw [step_running hphase]
    simp only [onWork, streamNext, h]
    rfl
  · rw [step_running hphase]
    simp only [onWork, streamNext, h]
    rfl
  all_goals simp only [fetch, hp, hc]

/-- Settles O9: with nothing at the port a step gives the same state, and so does every number of steps. -/
theorem idleBlockKeepsItsState : Obligations.IdleBlockKeepsItsState := by
  intro n s hidle hport
  have hstep : Sys2Proof.core.step s = .next s := by
    obtain ⟨-, hstep⟩ | ⟨rest, hreset, -⟩ | ⟨c, rest, hcommand, -⟩ := step_idle hidle
    · exact hstep
    · simp [hport] at hreset
    · simp [hport] at hcommand
  induction n with
  | zero => rfl
  | succ n ih => simp only [Host.Core.run, hstep]; exact ih

/-- Settles O10: `RESET` is taken from the port and rewrites every field but the sinks and the ports. -/
theorem resetEventEffect : Obligations.ResetEventEffect :=
  fun _ _ hidle hport => step_reset hidle hport

/-- Settles O60: both are the definitions. -/
theorem statusCodesOfResults : Obligations.StatusCodesOfResults :=
  ⟨⟨rfl, rfl, rfl, rfl, rfl, rfl, rfl, rfl, rfl, rfl⟩, fun _ => rfl⟩

/-- Settles O6: each word is evaluated. -/
theorem writtenSymbolWordsDecode : Obligations.WrittenSymbolWordsDecode := by
  unfold Obligations.WrittenSymbolWordsDecode
  exact ⟨rfl, rfl, rfl, rfl, rfl, rfl, rfl, rfl, rfl, rfl, rfl, rfl, rfl⟩

/-! ### The invariants at reset (10_state.md R46, R47) -/

theorem inactive_coherent : Session.inactive.coherent := by
  simp [Session.coherent, Session.inactive]

/-- R262: no learned entry, no previous code, the first width. -/
theorem lzwRegs_inv_of_fresh {r : LzwRegs} (hwidth : r.codeLength = 9) (hlearned : r.learned = [])
    (hprev : r.prev = none) : r.Inv where
  width := by rw [hwidth, LzwRegs.tableSize, hlearned]; rfl
  entries := by rw [hlearned]; exact fun i hi => absurd hi (Nat.not_lt_zero i)
  prev := by rw [hprev]; exact fun _ h => by cases h

/-- R37: the defaults have the width of the parameter port. -/
theorem predictorRegs_start_fits : PredictorRegs.start.fits := by
  unfold PredictorRegs.fits; decide

/-- The registers of the idle block, in any phase that the invariants of the parts say nothing about, with any
input and a record that fits the port. -/
theorem work_inv_of_start {w : Work} (hidle : w.phase = .idle → w = .idle) (hcursor : w.cursorInRange)
    (hn : w.n = 0) (hacc : w.acc = 0) (hlzw : w.lzw = .start)
    (hcounts : w.phase ≠ .codeLengths) (hcopy : w.phase ≠ .distance) (hrows : w.phase ≠ .png)
    (hpred : w.pred = .start) (hparams : ∀ q, w.params = some q → q.fits = true) : w.Inv where
  idle := hidle
  cursor := hcursor
  group := by rw [hn, hacc]; decide
  lzw := by rw [hlzw]; exact lzwRegs_inv_of_fresh rfl rfl rfl
  inflate := ⟨fun h => absurd h hcounts, fun h => absurd h hcopy⟩
  predictor := ⟨fun h => absurd h hrows, fun _ => by rw [hpred]; exact ⟨rfl, rfl, rfl⟩⟩
  params := ⟨hparams, by rw [hpred]; exact predictorRegs_start_fits⟩

theorem work_idle_inv : Work.idle.Inv :=
  work_inv_of_start (fun _ => rfl) trivial rfl rfl rfl (by decide) (by decide) (by decide) rfl
    (fun _ h => by cases h)

theorem reset_sessionInv : State.reset.SessionInv where
  sessions u := by cases u <;> exact inactive_coherent
  tuple := fun h => by cases h
  memory := rfl
  nullSink := rfl
  response := fun _ => rfl

/-- Settles O12: at reset every session is closed, no sink is written and the registers are idle. -/
theorem invariantsHoldAtReset : Obligations.InvariantsHoldAtReset := ⟨reset_sessionInv, work_idle_inv⟩

end Sys2Proof.Machine

/-! ## A symbol's meaning on the state (30_encoding.md R117) -/

namespace Sys2Proof.Machine

theorem onWork_running {f : Work → Progress} {s : State} {w : Work} (h : f s.work = .running w) :
    onWork f s = .next { s with work := w } := by
  simp only [onWork, h]

theorem onWork_done {f : Work → Progress} {s : State} {w : Work} (h : f s.work = .done w) :
    onWork f s = .next (s.decodeDone w.out) := by
  simp only [onWork, h]; rfl

theorem onWork_raised {f : Work → Progress} {s : State} {e : Status} (h : f s.work = .raised e) :
    onWork f s = .next (s.decodeFault e) := by
  simp only [onWork, h]; rfl

/-- A symbol after which the decode goes on (R5). -/
theorem exec_running {i : Instr} {s : State} {w : Work} (hi : isStreamSymbol i = true)
    (h : runSymbol i s.work = .running w) : exec i s = .next { s with work := w } := by
  rw [exec_symbol hi, onWork_running h]

/-- A symbol that ends its decode (R62). -/
theorem exec_done {i : Instr} {s : State} {w : Work} (hi : isStreamSymbol i = true)
    (h : runSymbol i s.work = .done w) : exec i s = .next (s.decodeDone w.out) := by
  rw [exec_symbol hi, onWork_done h]

/-- A symbol whose rule raises (R350). -/
theorem exec_raised {i : Instr} {s : State} {e : Status} (hi : isStreamSymbol i = true)
    (h : runSymbol i s.work = .raised e) : exec i s = .next (s.decodeFault e) := by
  rw [exec_symbol hi, onWork_raised h]

end Sys2Proof.Machine

/-! ## The symbols of the byte streams (40_hex.md, 41_ascii85.md, 44_rle.md) -/

namespace Sys2Proof.Machine

/-- R69: a pair of digits is a byte, the high digit first. -/
theorem append_nibbles : ∀ h v : BitVec 4, h ++ v = BitVec.ofNat 8 (16 * h.toNat + v.toNat) := by decide

/-- R137: each digit class has its value. -/
theorem exec_hexDigit {i : Instr} {n : BitVec 4} (s : State)
    (h : (∃ v : BitVec 4, v.toNat ≤ 9 ∧ i = .hexDigit09 v ∧ n.toNat = v.toNat) ∨
      (∃ v : BitVec 3, 1 ≤ v.toNat ∧ v.toNat ≤ 6 ∧ i = .hexDigitUpper v ∧ n.toNat = v.toNat + 9) ∨
      (∃ v : BitVec 3, 1 ≤ v.toNat ∧ v.toNat ≤ 6 ∧ i = .hexDigitLower v ∧ n.toNat = v.toNat + 9)) :
    exec i s = onWork (hexNibble n) s := by
  have hletter {v : BitVec 3} (hv : n.toNat = v.toNat + 9) : BitVec.ofNat 4 (v.toNat + 9) = n := by
    rw [← hv, BitVec.ofNat_toNat, BitVec.setWidth_eq]
  obtain ⟨v, -, rfl, hn⟩ | ⟨v, -, -, rfl, hn⟩ | ⟨v, -, -, rfl, hn⟩ := h
  · rw [BitVec.eq_of_toNat_eq hn]; rfl
  · rw [← hletter hn]; rfl
  · rw [← hletter hn]; rfl

/-- Settles O35: a digit of any class is `hexNibble` of its value. -/
theorem hexSymbolEffects : Obligations.HexSymbolEffects := by
  intro s
  refine ⟨fun c _ => exec_running rfl rfl, fun i n hi => ⟨fun hhi => ?_, fun h hhi => ?_⟩,
    fun c => exec_raised rfl rfl, fun hhi => exec_done (w := s.work) rfl ?_, fun hhi => exec_raised rfl ?_⟩
  · rw [exec_hexDigit s hi]
    exact onWork_running (by simp only [hexNibble, hhi])
  · rw [exec_hexDigit s hi]
    exact onWork_running (by simp only [hexNibble, hhi, append_nibbles])
  · simp only [runSymbol, hexEndOfInput, hhi]
  · obtain ⟨h, hhi⟩ := Option.ne_none_iff_exists'.mp hhi
    simp only [runSymbol, hexEndOfInput, hhi]

/-- R14: the weight of a digit. -/
theorem w85_eq : ∀ n : Nat, n ≤ 4 → Config.w85 n = 85 ^ (4 - n) := by decide

/-- Settles O37: by the branches of each symbol's rule. -/
theorem a85SymbolEffects : Obligations.A85SymbolEffects := by
  intro s hn
  have hdigit (c : Byte) : exec (.a85Digit c) s = onWork (a85Digit c) s := rfl
  have hend : exec .a85EndOfData s = onWork a85EndOfData s := rfl
  refine ⟨fun c _ => exec_running rfl rfl, fun c acc _ hacc => ⟨fun h4 => ?_, fun h4 hlt => ?_, fun h4 hge => ?_⟩,
    fun h0 => exec_running rfl ?_, fun h0 => exec_raised rfl (if_pos h0), fun hgt => exec_running rfl (if_pos hgt),
    fun hgt => exec_raised rfl (if_neg hgt), fun c => exec_raised rfl rfl, fun h2 => exec_done (w := s.work) rfl ?_,
    fun v h2 hv => ⟨fun hlt => ?_, fun hge => ?_⟩⟩
  · refine (hdigit c).trans (onWork_running ?_)
    simp only [a85Digit, w85_eq _ hn, ← hacc]
    rw [if_neg (by omega)]
  · refine (hdigit c).trans (onWork_running ?_)
    simp only [a85Digit, w85_eq _ hn, ← hacc]
    rw [if_pos (by omega), if_neg (by omega)]
    rfl
  · refine (hdigit c).trans (onWork_raised ?_)
    simp only [a85Digit, w85_eq _ hn, ← hacc]
    rw [if_pos (by omega), if_pos (by omega)]
  · exact if_neg fun h => h h0
  · exact if_neg (by omega)
  · have hweight : s.work.acc + Config.w85 (s.work.n - 1) = v := by
      rw [w85_eq _ (by omega), hv, show 4 - (s.work.n - 1) = 5 - s.work.n by omega]
    refine hend.trans (onWork_done (w := { s.work with out := _ }) ?_)
    simp only [a85EndOfData, hweight, if_pos h2]
    exact if_neg (by omega)
  · have hweight : s.work.acc + Config.w85 (s.work.n - 1) = v := by
      rw [w85_eq _ (by omega), hv, show 4 - (s.work.n - 1) = 5 - s.work.n by omega]
    refine hend.trans (onWork_raised ?_)
    simp only [a85EndOfData, hweight, if_pos h2]
    exact if_pos (by omega)

/-- Settles O39: by the branches of the three rules. -/
theorem rleControlByteEffects : Obligations.RleControlByteEffects := by
  intro s
  refine ⟨fun n => ⟨fun hfits => exec_running rfl ?_, fun hshort => exec_raised rfl (if_pos hshort)⟩,
    exec_done (w := s.work) rfl rfl, fun n hn => ⟨fun b hb => exec_running rfl ?_, fun hb => exec_raised rfl ?_⟩⟩
  · exact if_neg (by omega)
  · have hcount : 257 - (128 + n.toNat) = 129 - n.toNat := by omega
    simp only [runSymbol, rleReplicate, hb, hcount]
  · simp only [runSymbol, rleReplicate, hb]

end Sys2Proof.Machine

/-! ## The codes of LZW (45_lzw.md R266 to R274) -/

namespace Sys2Proof.Machine

/-- R271: the width grows when the table reaches one of three sizes. -/
theorem widened_eq (size codeLength : Nat) :
    widened size codeLength = codeLength + if size ∈ [511, 1023, 2047] then 1 else 0 := by
  simp only [widened, List.mem_cons, List.not_mem_nil, or_false]
  split <;> rfl

/-- Settles O43: `learn` with and without a previous code. -/
theorem lzwCodeEffects : Obligations.LzwCodeEffects := by
  intro s
  refine ⟨exec_running rfl rfl, exec_done (w := s.work) rfl rfl, fun code => exec_raised rfl rfl,
    fun code hknown _ _ => ⟨fun hprev => exec_running rfl ?_, fun p hprev => exec_running rfl ?_⟩,
    fun code p data hprev hsize hdata => exec_running rfl ?_⟩
  · simp only [runSymbol, lzwKnown, if_pos hknown, emitAndLearn, LzwRegs.learn, hprev]
  · simp only [runSymbol, lzwKnown, if_pos hknown, emitAndLearn, LzwRegs.learn, hprev, widened_eq]
  · simp only [runSymbol, lzwNotYetDefined, hprev, if_pos hsize, ← hdata, emitAndLearn, LzwRegs.learn, widened_eq]

theorem LzwRegs.entry_of_le {r : LzwRegs} {c : Nat} (h : 258 ≤ c) : r.entry c = r.learned.getD (c - 258) [] := by
  rw [LzwRegs.entry, if_neg (by omega), if_neg (by omega)]

/-- R270: a learned entry stands at the index that was the table size. -/
theorem LzwRegs.entry_tableSize_of_learned {r r' : LzwRegs} {x : Bytes} (h : r'.learned = r.learned ++ [x]) :
    r'.entry r.tableSize = x := by
  have hindex : r.tableSize - 258 = r.learned.length := by rw [LzwRegs.tableSize]; omega
  rw [LzwRegs.entry_of_le (by rw [LzwRegs.tableSize]; omega), h, hindex, List.getD_eq_getElem?_getD,
    List.getElem?_concat_length]
  rfl

/-- Settles O44: the carried byte is the first byte of the previous entry, so the value that is emitted and the
entry that is learned are the same. -/
theorem lzwNotYetDefinedEntry : Obligations.LzwNotYetDefinedEntry := by
  intro s code p hinv hprev hsize
  obtain ⟨-, -, -, hhead⟩ := hinv.prev p hprev
  have hentry : s.work.lzw.entry p.toNat = s.work.lzw.char :: (s.work.lzw.entry p.toNat).tail := by
    obtain ⟨tail, htail⟩ := List.head?_eq_some_iff.mp hhead
    rw [htail, List.tail_cons]
  obtain ⟨-, -, -, -, hexec⟩ := lzwCodeEffects s
  refine ⟨_, _, hexec code p _ hprev hsize rfl, rfl, ?_, ?_⟩
  · rw [hsize]
    refine LzwRegs.entry_tableSize_of_learned (x := s.work.lzw.entry p.toNat ++ [s.work.lzw.char]) ?_
    rw [hentry]
    rfl
  · rw [hentry]
    rfl

end Sys2Proof.Machine

/-! ## The commands out of session and without input (60_exceptions.md R343, R344) -/

namespace Sys2Proof.Machine

theorem beginEncode_of_active {u : UnitId} {k : SinkId} {init : State → State} {s : State}
    (h : s.active u = true) : beginEncode u k init s = respond .invalidState [] s :=
  if_pos h

theorem encodeBlock_of_inactive {P : Parameters} {u : UnitId} {input : Option Bytes}
    {feed : Bytes → State → Bytes × State} {s : State} (h : s.active u = false) :
    encodeBlock P u input feed s = respond .invalidState [] s := by
  simp only [encodeBlock, h, Bool.not_false, if_true, raise_keepsState]

theorem endEncode_of_inactive {P : Parameters} {u : UnitId} {tail : State → Bytes} {s : State}
    (h : s.active u = false) : endEncode P u tail s = respond .invalidState [] s := by
  rw [endEncode, h]; rfl

/-- Settles O26: the first check of each command, for each unit. -/
theorem outOfSessionCommandsFault : Obligations.OutOfSessionCommandsFault := fun _ _ _ =>
  ⟨fun h => congrArg Host.Outcome.next (beginEncode_of_active (u := .hex) h),
    fun h => congrArg Host.Outcome.next (beginEncode_of_active (u := .a85) h),
    fun h => congrArg Host.Outcome.next (beginEncode_of_active (u := .flate) h),
    fun h => ⟨congrArg Host.Outcome.next (encodeBlock_of_inactive (u := .hex) h),
      congrArg Host.Outcome.next (endEncode_of_inactive (u := .hex) h)⟩,
    fun h => ⟨congrArg Host.Outcome.next (encodeBlock_of_inactive (u := .a85) h),
      congrArg Host.Outcome.next (endEncode_of_inactive (u := .a85) h)⟩,
    fun h => ⟨congrArg Host.Outcome.next (encodeBlock_of_inactive (u := .flate) h),
      congrArg Host.Outcome.next (endEncode_of_inactive (u := .flate) h)⟩⟩

/-- R344 b: an absent buffer closes the session. -/
theorem encodeBlock_none_of_active {P : Parameters} {u : UnitId} {feed : Bytes → State → Bytes × State}
    {s : State} (h : s.active u = true) :
    encodeBlock P u none feed s = respond .invalidHandle [] (closeSession u P.zInit s) := by
  simp only [encodeBlock, h, Bool.not_true, Bool.false_eq_true, if_false, raise_closesSession]

/-- Settles O27: a decode has nothing to read, a block closes its session. -/
theorem absentInputFaults : Obligations.AbsentInputFaults := fun _ _ =>
  ⟨rfl, rfl, rfl, rfl, rfl,
    fun h => congrArg Host.Outcome.next (encodeBlock_none_of_active (u := .hex) h),
    fun h => congrArg Host.Outcome.next (encodeBlock_none_of_active (u := .a85) h),
    fun h => congrArg Host.Outcome.next (encodeBlock_none_of_active (u := .flate) h)⟩

end Sys2Proof.Machine

/-! ## The classes of the Predictor value and the rows (43_predictor.md R210 to R223) -/

namespace Sys2Proof.Machine

/-- Settles O48: by the branches of each class's rule. -/
theorem predictorClassEffects : Obligations.PredictorClassEffects := fun s =>
  ⟨exec_done (w := { s.work with out := s.work.inf.infl }) rfl rfl, exec_raised rfl rfl,
    fun _ => exec_raised rfl rfl,
    fun _ hcolumns hbpc => exec_running rfl (if_neg (by omega)),
    fun _ hbad => exec_raised rfl (if_pos hbad)⟩

theorem length_reconstruct (f : RowFilter) : ∀ (raw prev : Bytes) (left upleft : Byte),
    (reconstruct f raw prev left upleft).length = raw.length
  | [], _, _, _ => rfl
  | _ :: raw, prev, _, _ => congrArg (· + 1) (length_reconstruct f raw prev.tail _ _)

/-- R216: each byte of a row is its raw byte and the prediction from the byte before it, the byte above it and
the byte before that one. -/
theorem getD_reconstruct (f : RowFilter) : ∀ (raw prev : Bytes) (left upleft : Byte) (j : Nat), j < raw.length →
    (reconstruct f raw prev left upleft).getD j 0 = raw.getD j 0 +
      f (if j = 0 then left else (reconstruct f raw prev left upleft).getD (j - 1) 0) (prev.getD j 0)
        (if j = 0 then upleft else prev.getD (j - 1) 0)
  | [], _, _, _, j, hj => absurd hj (Nat.not_lt_zero j)
  | raw :: raws, prev, left, upleft, 0, _ => by
    simp only [reconstruct, List.getD_cons_zero, if_true]
    cases prev <;> rfl
  | raw :: raws, prev, left, upleft, j + 1, hj => by
    have ih := getD_reconstruct f raws prev.tail (raw + f left (prev.headD 0) upleft) (prev.headD 0) j
      (Nat.lt_of_succ_lt_succ hj)
    have hup : prev.tail.getD j 0 = prev.getD (j + 1) 0 := by cases prev <;> rfl
    have hupleft : (if j = 0 then prev.headD 0 else prev.tail.getD (j - 1) 0) = prev.getD j 0 := by
      cases prev <;> cases j <;> rfl
    simp only [reconstruct, List.getD_cons_succ, Nat.add_one_ne_zero, if_false, Nat.add_sub_cancel]
    rw [ih, hup, hupleft]
    cases j <;> rfl

/-- The filter of a row tag (R217 to R220). -/
def filterOfTag (tag : Nat) : RowFilter :=
  match tag with
  | 1 => subFilter
  | 3 => averageFilter
  | 4 => paethFilter
  | _ => upFilter

/-- R217 to R220: the filters on bytes are the predictions on their numbers. -/
theorem toNat_filterOfTag (tag : Nat) (left up upleft : Byte) :
    (filterOfTag tag left up upleft).toNat = predicted tag left.toNat up.toNat upleft.toNat := by
  match tag with
  | 0 | 1 | 2 | _ + 5 => rfl
  | 3 =>
    have hleft := left.isLt
    have hup := up.isLt
    simp only [filterOfTag, predicted, averageFilter, BitVec.toNat_ofNat]
    omega
  | 4 =>
    simp only [filterOfTag, predicted, paethFilter]
    (repeat' split) <;> rfl

/-- What a row symbol does is `pngRow` of its tag and filter (R216). -/
theorem exec_pngTag {i : Instr} {tag : Byte} (s : State) (h : (i, tag) ∈
    [(.pngTagNone, 0), (.pngTagSub, 1), (.pngTagUp, 2), (.pngTagAverage, 3), (.pngTagPaeth, (4 : Byte))]) :
    exec i s = onWork (pngRow tag (filterOfTag tag.toNat)) s := by
  simp only [List.mem_cons, Prod.mk.injEq, List.not_mem_nil, or_false] at h
  obtain ⟨rfl, rfl⟩ | ⟨rfl, rfl⟩ | ⟨rfl, rfl⟩ | ⟨rfl, rfl⟩ | ⟨rfl, rfl⟩ := h <;> rfl

theorem getD_take_of_lt {α : Type} {l : List α} {n j : Nat} (a : α) (h : j < n) : (l.take n).getD j a = l.getD j a := by
  simp only [List.getD_eq_getElem?_getD, List.getElem?_take_of_lt h]

theorem getD_drop {α : Type} (l : List α) (n j : Nat) (a : α) : (l.drop n).getD j a = l.getD (n + j) a := by
  simp only [List.getD_eq_getElem?_getD, List.getElem?_drop]

/-- R216: a byte of a reconstructed row, on numbers. -/
theorem toNat_getD_reconstruct {tag : Nat} {raw prev : Bytes} {j : Nat} (hj : j < raw.length) {row : Bytes}
    (hrow : row = reconstruct (filterOfTag tag) raw prev 0 0) :
    (row.getD j 0).toNat = ((raw.getD j 0).toNat + predicted tag (if j = 0 then 0 else (row.getD (j - 1) 0).toNat)
      (prev.getD j 0).toNat (if j = 0 then 0 else (prev.getD (j - 1) 0).toNat)) % 256 := by
  have hzero (c : Prop) [Decidable c] (b : Byte) : (if c then (0 : Byte) else b).toNat = if c then 0 else b.toNat := by
    split <;> rfl
  subst hrow
  conv => lhs; rw [getD_reconstruct _ _ _ _ _ _ hj]
  rw [BitVec.toNat_add, toNat_filterOfTag, hzero, hzero]

/-- Settles O49: a row symbol is `pngRow` of its tag, whose bytes are those of `reconstruct`. -/
theorem pngRowEffects : Obligations.PngRowEffects := by
  intro s
  refine ⟨fun i tag hi => ?_, fun tag => exec_raised rfl rfl⟩
  let raw := (s.work.inf.infl.drop s.work.ip).take s.work.pred.rowBytes
  have hraw : raw.length = min s.work.pred.rowBytes (s.work.inf.infl.length - s.work.ip) := by
    simp only [raw, List.length_take, List.length_drop]
  have hlen := length_reconstruct (filterOfTag tag.toNat) raw s.work.pred.prev 0 0
  refine ⟨reconstruct (filterOfTag tag.toNat) raw s.work.pred.prev 0 0, ?_, hlen.trans hraw, fun j hj => ?_⟩
  · rw [exec_pngTag s hi, hlen]
    exact onWork_running (by simp only [pngRow, raw, length_reconstruct])
  · rw [hlen] at hj
    have hbyte : raw.getD j 0 = s.work.inf.infl.getD (s.work.ip + j) 0 := by
      rw [getD_take_of_lt _ (by omega), getD_drop]
    rw [toNat_getD_reconstruct hj rfl, hbyte]

end Sys2Proof.Machine

/-! ## Reading bits (47_zlib_deflate_reference.md R292) -/

namespace Sys2Proof.Machine

theorem lsbBit_isSome_iff {bs : Bytes} {k : Nat} : (lsbBit bs k).isSome ↔ 2 + k / 8 < bs.length := by
  rw [lsbBit, Option.isSome_map, isSome_getElem?]

/-- A field of `n` bits whose last bit, if any, is in the data can be read, and is below `2 ^ n`. -/
theorem exists_readLsb (bs : Bytes) : ∀ (n k : Nat), k + n ≤ 8 * (bs.length - 2) →
    ∃ v, readLsb bs k n = some v ∧ v < 2 ^ n
  | 0, _, _ => ⟨0, rfl, Nat.one_pos⟩
  | n + 1, k, h => by
    obtain ⟨b, hb⟩ := Option.isSome_iff_exists.mp (lsbBit_isSome_iff (bs := bs) (k := k) |>.mpr (by omega))
    obtain ⟨r, hr, hlt⟩ := exists_readLsb bs n (k + 1) (by omega)
    have hbit := b.toNat_lt
    exact ⟨b.toNat + 2 * r, by simp only [readLsb, hb, hr], by rw [Nat.pow_succ]; omega⟩

/-- A field that has been read lies in the data. -/
theorem le_of_readLsb {bs : Bytes} : ∀ {n k v : Nat}, readLsb bs k n = some v → n ≠ 0 → k + n ≤ 8 * (bs.length - 2)
  | 0, _, _, _, h => absurd rfl h
  | n + 1, k, v, h, _ => by
    unfold readLsb at h
    split at h
    · rename_i b r hb hr
      have hk := lsbBit_isSome_iff.mp (Option.isSome_of_mem hb)
      by_cases hn : n = 0
      · omega
      · have := le_of_readLsb hr hn; omega
    · cases h

theorem readLsb_lt {bs : Bytes} {n k v : Nat} (h : readLsb bs k n = some v) : v < 2 ^ n := by
  by_cases hn : n = 0
  · subst hn
    cases h
    exact Nat.one_pos
  · obtain ⟨v', hv', hlt⟩ := exists_readLsb bs n k (le_of_readLsb h hn)
    rw [hv'] at h
    cases h
    exact hlt

theorem readLsb_eq_none {bs : Bytes} {n k : Nat} (hn : n ≠ 0) (h : 8 * (bs.length - 2) < k + n) :
    readLsb bs k n = none := by
  cases hr : readLsb bs k n with
  | none => rfl
  | some v => exact absurd (le_of_readLsb hr hn) (by omega)

/-- The registers with the bit cursor moved past `n` bits (R292). -/
def Work.skipBits (w : Work) (n : Nat) : Work := { w with inf := { w.inf with bitPos := w.inf.bitPos + n } }

theorem readField_of_some {w : Work} {n v : Nat} (h : readLsb w.input w.inf.bitPos n = some v) :
    readField w n = some (v, w.skipBits n) := by
  simp only [readField, h, Work.skipBits]

theorem readField_of_none {w : Work} {n : Nat} (h : readLsb w.input w.inf.bitPos n = none) :
    readField w n = none := by
  simp only [readField, h]

theorem Work.skipBits_zero (w : Work) : w.skipBits 0 = w := rfl

theorem Work.skipBits_skipBits (w : Work) (m n : Nat) : (w.skipBits m).skipBits n = w.skipBits (m + n) := by
  simp only [Work.skipBits, Nat.add_assoc]

/-- R299: consecutive fields, each of which can be read. -/
theorem readFields_of_some {n : Nat} : ∀ {k : Nat} {vals : List Nat} {w : Work}, vals.length = k →
    (∀ j, j < k → readLsb w.input (w.inf.bitPos + n * j) n = some (vals.getD j 0)) →
    readFields w n k = some (vals, w.skipBits (n * k))
  | 0, [], w, _, _ => by rw [readFields, Nat.mul_zero, Work.skipBits_zero]
  | k + 1, v :: vals, w, hlen, h => by
    have hfirst : readField w n = some (v, w.skipBits n) := readField_of_some (h 0 (Nat.succ_pos k))
    have hrest := readFields_of_some (n := n) (k := k) (vals := vals) (w := w.skipBits n) (Nat.succ.inj hlen)
      (fun j hj => by
        have hnext := h (j + 1) (Nat.succ_lt_succ hj)
        rw [Nat.mul_succ, Nat.add_comm (n * j), ← Nat.add_assoc] at hnext
        exact hnext)
    simp only [readFields, hfirst, hrest, Work.skipBits_skipBits, Nat.mul_succ, Nat.add_comm]
  | 0, _ :: _, _, h, _ => by cases h
  | k + 1, [], _, h, _ => by cases h

/-- R312 case 8: consecutive fields, one of which the input does not have. -/
theorem readFields_of_none {n : Nat} : ∀ {k j : Nat} {w : Work}, j < k →
    readLsb w.input (w.inf.bitPos + n * j) n = none → readFields w n k = none
  | 0, j, _, hj, _ => absurd hj (Nat.not_lt_zero j)
  | k + 1, 0, w, _, h => by simp only [readFields, readField_of_none h]
  | k + 1, j + 1, w, hj, h => by
    cases hfirst : readLsb w.input w.inf.bitPos n with
    | none => simp only [readFields, readField_of_none hfirst]
    | some v =>
      rw [Nat.mul_succ, Nat.add_comm (n * j), ← Nat.add_assoc] at h
      have hrest := readFields_of_none (n := n) (k := k) (j := j) (w := w.skipBits n) (Nat.lt_of_succ_lt_succ hj) h
      simp only [readFields, readField_of_some hfirst, hrest]

end Sys2Proof.Machine

/-! ## The zlib header, the trailer and the block headers (47_zlib_deflate_reference.md R291 to R298, R310) -/

namespace Sys2Proof.Machine

/-- Settles O50: the Boolean checks are the four conditions. -/
theorem zlibHeaderEffect : Obligations.ZlibHeaderEffect := by
  intro cmf flg s
  have hchecks : zlibHeaderOk cmf flg = true ↔ (cmf.toNat * 256 + flg.toNat) % 31 = 0 ∧ cmf.toNat % 16 = 8 ∧
      cmf.toNat / 16 ≤ 7 ∧ flg.toNat / 32 % 2 = 0 := by
    simp only [zlibHeaderOk, Bool.and_eq_true, beq_iff_eq, decide_eq_true_eq, and_assoc]
  split
  next h => exact exec_running rfl (if_pos (hchecks.mpr h))
  next h => exact exec_raised rfl (if_neg fun hok => h (hchecks.mp hok))

/-- Settles O52: a fixed block reads nothing after its header. -/
theorem fixedAndIllegalBlockEffects : Obligations.FixedAndIllegalBlockEffects :=
  fun _ _ => ⟨exec_running rfl rfl, exec_raised rfl rfl⟩

/-- R311: the running sums from any start, as sums over the whole sequence. -/
theorem foldl_adlerStep (bs : Bytes) : ∀ {a b : Nat}, a < 65521 → b < 65521 →
    bs.foldl adlerStep (a, b) =
      ((a + (adlerSums bs).1) % 65521, (b + bs.length * a + (adlerSums bs).2) % 65521) := by
  induction bs with
  | nil =>
    intro a b ha hb
    simp only [List.foldl_nil, adlerSums, Nat.add_zero, List.length_nil, Nat.zero_mul, Nat.mod_eq_of_lt ha,
      Nat.mod_eq_of_lt hb]
  | cons x bs ih =>
    intro a b _ _
    have hfirst : ((a + x.toNat) % 65521 + (adlerSums bs).1) % 65521 = (a + (x.toNat + (adlerSums bs).1)) % 65521 := by
      omega
    have hsecond : ((b + (a + x.toNat) % 65521) % 65521 + bs.length * ((a + x.toNat) % 65521) + (adlerSums bs).2) % 65521 =
        (b + (bs.length + 1) * a + (x.toNat * (bs.length + 1) + (adlerSums bs).2)) % 65521 := by
      have hprod : bs.length * (a + x.toNat) =
          65521 * (bs.length * ((a + x.toNat) / 65521)) + bs.length * ((a + x.toNat) % 65521) := by
        rw [Nat.mul_left_comm, ← Nat.mul_add, Nat.div_add_mod]
      have hexpand : b + (bs.length + 1) * a + (x.toNat * (bs.length + 1) + (adlerSums bs).2) =
          b + (a + x.toNat) + bs.length * (a + x.toNat) + (adlerSums bs).2 := by
        rw [Nat.mul_comm x.toNat, Nat.succ_mul, Nat.succ_mul, Nat.mul_add]
        omega
      rw [hexpand, hprod]
      omega
    rw [List.foldl_cons, adlerStep, ih (Nat.mod_lt _ (by omega)) (Nat.mod_lt _ (by omega))]
    exact Prod.ext hfirst hsecond

theorem toNat_adler32 (bs : Bytes) : (adler32 bs).toNat = adlerOfSums bs := by
  have hhigh : (bs.length + (adlerSums bs).2) % 65521 < 65521 := Nat.mod_lt _ (by omega)
  have hlow : (1 + (adlerSums bs).1) % 65521 < 65521 := Nat.mod_lt _ (by omega)
  rw [adler32, foldl_adlerStep bs (by omega) (by omega), adlerOfSums]
  simp only [Nat.zero_add, Nat.mul_one, BitVec.toNat_ofNat]
  omega

/-- Settles O57: the checksum is that of the sums, and `PARAMS` decides what follows. -/
theorem trailerEffect : Obligations.TrailerEffect := by
  intro s adler
  have hsum : adler.toNat = adlerOfSums s.work.inf.infl ↔ adler = adler32 s.work.inf.infl := by
    rw [← toNat_adler32]
    exact BitVec.toNat_inj
  refine ⟨fun hne => exec_raised rfl (if_neg fun h => hne (hsum.mpr h)), fun heq => ⟨fun hnone => ?_, fun q hq => ?_⟩⟩
  · refine exec_done (w := { s.work with ip := 2 + s.work.inf.bitPos / 8, out := s.work.inf.infl }) rfl ?_
    simp only [runSymbol, zlibTrailer, if_pos (hsum.mp heq), hnone]
  · refine exec_running rfl ?_
    simp only [runSymbol, zlibTrailer, if_pos (hsum.mp heq), hq]
    rfl

/-- R294: the test for the complement. -/
theorem complement16_iff {len nlen : Nat} (h : len ≤ 65535) : nlen = 65535 - len ↔ nlen = len ^^^ 0xFFFF := by
  rw [complement16 len h]

theorem getElem?_of_drop_eq_append {α : Type} {l xs rest : List α} {i j : Nat} (h : l.drop i = xs ++ rest)
    (hj : j < xs.length) : l[i + j]? = xs[j]? := by
  rw [← List.getElem?_drop, h, List.getElem?_append_left hj]

theorem alignUp_eq (k : Nat) : alignUp k = 8 * ((k + 7) / 8) := by
  rw [alignUp]; omega

/-- R294: a stored block reads its two lengths from the byte boundary on. -/
theorem deflateBlockStored_of_lengths {w : Work} (final : Bool) {q len nlen : Nat} (hq : q = (w.inf.bitPos + 7) / 8)
    (hlen : readLsb w.input (8 * q) 16 = some len) (hnlen : readLsb w.input (8 * q + 16) 16 = some nlen) :
    deflateBlockStored final w =
      if nlen ≠ len ^^^ 0xFFFF then inflateError
      else if w.input.length < 2 + (q + 4) + len then inflateError
      else .running { w with
        phase := if final then .trailer else .blockHeader
        inf := { w.inf with
          bfinal := final
          infl := w.inf.infl ++ (w.input.drop (2 + (q + 4))).take len
          bitPos := 8 * (q + 4 + len) } } := by
  have halign : alignUp w.inf.bitPos = 8 * q := by rw [alignUp_eq, hq]
  have hbytes : (8 * q + 16 + 16) / 8 = q + 4 := by omega
  have hend : 8 * q + 16 + 16 + 8 * len = 8 * (q + 4 + len) := by omega
  simp only [deflateBlockStored, readField, halign, hlen, hnlen, hbytes, hend, afterBlock]

/-- Settles O51: the four bytes after the boundary are the two lengths; with fewer than four the second length,
if not the first, cannot be read. -/
theorem storedBlockEffect : Obligations.StoredBlockEffect := by
  intro s final q hq
  refine ⟨fun l0 l1 n0 n1 rest hdrop => ?_, fun hshort => ?_⟩
  · have hbyte {j : Nat} (hj : j < 4) : s.work.input[2 + q + j]? = [l0, l1, n0, n1][j]? :=
      getElem?_of_drop_eq_append (xs := [l0, l1, n0, n1]) hdrop hj
    have hlen : readLsb s.work.input (8 * q) 16 = some (l0.toNat + 256 * l1.toNat) :=
      readLsb_word (hbyte (j := 0) (by omega)) (hbyte (j := 1) (by omega))
    have hnlen : readLsb s.work.input (8 * q + 16) 16 = some (n0.toNat + 256 * n1.toNat) :=
      readLsb_word (q := q + 2) (hbyte (j := 2) (by omega)) (hbyte (j := 3) (by omega))
    have hremain := congrArg List.length hdrop
    simp only [List.length_drop, List.length_cons] at hremain
    have hrest : s.work.input.drop (2 + (q + 4)) = rest := by
      rw [← Nat.add_assoc, ← List.drop_drop, hdrop]; rfl
    have h0 := l0.isLt
    have h1 := l1.isLt
    have hcomplement := complement16_iff (len := l0.toNat + 256 * l1.toNat) (nlen := n0.toNat + 256 * n1.toNat)
      (by omega)
    have hblock := deflateBlockStored_of_lengths final hq hlen hnlen
    rw [hrest] at hblock
    refine ⟨fun hn hfits => exec_running rfl ?_, fun hbad => exec_raised rfl ?_⟩
    · rw [runSymbol, hblock, if_neg (fun h => h (hcomplement.mp hn)), if_neg (by omega)]
    · rw [runSymbol, hblock]
      split
      · rfl
      next hn =>
        split
        · rfl
        · exact absurd (hcomplement.mpr (Decidable.not_not.mp hn)) (by omega)
  · have halign : alignUp s.work.inf.bitPos = 8 * q := by rw [alignUp_eq, hq]
    have hnlen : readLsb s.work.input (8 * q + 16) 16 = none := readLsb_eq_none (by omega) (by omega)
    refine exec_raised rfl ?_
    cases hlen : readLsb s.work.input (8 * q) 16 with
    | none => simp only [runSymbol, deflateBlockStored, readField, halign, hlen]; rfl
    | some len => simp only [runSymbol, deflateBlockStored, readField, halign, hlen, hnlen]; rfl

end Sys2Proof.Machine

/-! ## Literals, lengths and distances (47_zlib_deflate_reference.md R303 to R309) -/

namespace Sys2Proof.Machine

/-- R305: the two tables, by formula. -/
theorem lengthTables : ∀ k : Nat, k ≤ 28 →
    lengthExtra.getD k 0 = lengthExtraOf k ∧ lengthBase.getD k 0 = lengthBaseOf k := by decide

/-- R306: the two tables, by formula. -/
theorem distTables : ∀ d : Nat, d ≤ 29 → distExtra.getD d 0 = distExtraOf d ∧ distBase.getD d 0 = distBaseOf d := by
  decide

/-- R305: a length symbol `257 + k` reads the extra bits that the table gives it. -/
theorem deflateSymLength_of_some {sym : BitVec 9} {w : Work} {k x : Nat} (hk : sym.toNat - 257 = k) (hle : k ≤ 28)
    (hx : readLsb w.input w.inf.bitPos (lengthExtraOf k) = some x) :
    deflateSymLength sym w = .running { w with
      phase := .distance
      inf := { w.inf with copyLen := lengthBaseOf k + x, bitPos := w.inf.bitPos + lengthExtraOf k } } := by
  obtain ⟨hextra, hbase⟩ := lengthTables k hle
  have hread : readField w (lengthExtra.getD (sym.toNat - 257) 0) = some (x, w.skipBits (lengthExtraOf k)) := by
    rw [hk, hextra, readField_of_some hx]
  rw [← hk] at hbase
  unfold deflateSymLength
  simp only []
  rw [hread]
  simp only [hbase]
  rw [hk]
  rfl

theorem deflateSymLength_of_none {sym : BitVec 9} {w : Work} {k : Nat} (hk : sym.toNat - 257 = k) (hle : k ≤ 28)
    (hx : readLsb w.input w.inf.bitPos (lengthExtraOf k) = none) :
    deflateSymLength sym w = .raised .decompressionError := by
  obtain ⟨hextra, -⟩ := lengthTables k hle
  have hread : readField w (lengthExtra.getD (sym.toNat - 257) 0) = none := by
    rw [hk, hextra, readField_of_none hx]
  unfold deflateSymLength
  simp only []
  rw [hread]
  rfl

/-- Settles O55: a literal and the end of a block read nothing more; a length reads its extra bits. -/
theorem dataSymbolEffects : Obligations.DataSymbolEffects := by
  intro s
  refine ⟨fun b => exec_running rfl rfl, exec_running rfl rfl, fun sym hlow hhigh => ?_,
    fun sym => exec_raised rfl rfl⟩
  obtain ⟨k, hk⟩ : ∃ k, sym.toNat - 257 = k := ⟨_, rfl⟩
  have hle : k ≤ 28 := by omega
  rw [hk]
  refine ⟨fun x hx => exec_running rfl ?_, fun hnone => exec_raised rfl ?_⟩
  · rw [runSymbol, deflateSymLength_of_some hk hle hx]
  · rw [runSymbol, deflateSymLength_of_none hk hle hnone]

theorem one_le_distBaseOf (d : Nat) : 1 ≤ distBaseOf d := by
  unfold distBaseOf; split <;> omega

/-- R309: the copy appends `l` bytes, the bytes from `d` back on, over and over. -/
theorem exists_copyBack_eq_append {d : Nat} (hd : 1 ≤ d) : ∀ (l : Nat) {out : Bytes}, d ≤ out.length →
    ∃ copied, copyBack d l out = out ++ copied ∧ copied.length = l ∧
      ∀ j, j < l → copied.getD j 0 = out.getD (out.length - d + j % d) 0
  | 0, out, _ => ⟨[], (List.append_nil out).symm, rfl, fun j hj => absurd hj (Nat.not_lt_zero j)⟩
  | l + 1, out, hout => by
    let x := out.getD (out.length - d) 0
    have hlen : (out ++ [x]).length = out.length + 1 := List.length_append
    obtain ⟨copied, hcopy, hcount, hbyte⟩ :=
      exists_copyBack_eq_append hd l (out := out ++ [x]) (by omega)
    refine ⟨x :: copied, by rw [copyBack, hcopy, List.append_assoc]; rfl, congrArg (· + 1) hcount, fun j hj => ?_⟩
    cases j with
    | zero => rw [Nat.zero_mod]; rfl
    | succ j =>
      rw [List.getD_cons_succ, hbyte j (Nat.lt_of_succ_lt_succ hj), hlen]
      have hmod := Nat.mod_lt j hd
      by_cases hwrap : j % d + 1 = d
      · have hzero : (j + 1) % d = 0 := by
          rw [Nat.add_mod, Nat.add_mod_mod, hwrap, Nat.mod_self]
        rw [hzero, show out.length + 1 - d + j % d = out.length by omega, List.getD_eq_getElem?_getD,
          List.getElem?_concat_length]
        rfl
      · have hnext : (j + 1) % d = j % d + 1 := by
          rw [← Nat.mod_add_mod, Nat.mod_eq_of_lt (by omega)]
        rw [hnext, show out.length + 1 - d + j % d = out.length - d + (j % d + 1) by omega,
          List.getD_eq_getElem?_getD, List.getD_eq_getElem?_getD, List.getElem?_append_left (by omega)]

/-- Settles O56: the distance is the one that the table and the extra bits give. -/
theorem distanceSymbolCopies : Obligations.DistanceSymbolCopies := by
  intro s sym hsym
  obtain ⟨hextra, hbase⟩ := distTables sym.toNat hsym
  refine ⟨fun hnone => exec_raised rfl ?_, fun x d hx hd => ⟨fun hle => ?_, fun hlt => exec_raised rfl ?_⟩⟩
  · simp only [runSymbol, deflateSymDistance, hextra, readField_of_none hnone]
    rfl
  · have hpos : 1 ≤ d := hd ▸ Nat.le_add_right_of_le (one_le_distBaseOf sym.toNat)
    obtain ⟨copied, hcopy, hlen, hbytes⟩ := exists_copyBack_eq_append hpos s.work.inf.copyLen hle
    refine ⟨copied, exec_running rfl ?_, hlen, hbytes⟩
    simp only [runSymbol, deflateSymDistance, hextra, readField_of_some hx, hbase, ← hd]
    simp only [Work.skipBits, if_neg (Nat.not_lt.mpr hle), hcopy]
  · simp only [runSymbol, deflateSymDistance, hextra, readField_of_some hx, hbase, ← hd]
    exact if_pos hlt

end Sys2Proof.Machine

/-! ## The Kraft sum of a set of code lengths (47_zlib_deflate_reference.md R301) -/

namespace Sys2Proof.Machine

/-- How much of the code space of `b` bits the lengths 1..b take. -/
def kraftUpTo (lens : List Nat) (b : Nat) : Nat :=
  (lens.map (fun l => if 1 ≤ l ∧ l ≤ b then 2 ^ (b - l) else 0)).sum

theorem kraftUpTo_zero (lens : List Nat) : kraftUpTo lens 0 = 0 := by
  induction lens with
  | nil => rfl
  | cons l lens ih =>
    simp only [kraftUpTo, List.map_cons, List.sum_cons] at ih ⊢
    rw [ih, if_neg (by omega)]

/-- R301: one bit more doubles what is taken, and the codes of the new length take one place each. -/
theorem kraftUpTo_succ (lens : List Nat) (b : Nat) :
    kraftUpTo lens (b + 1) = 2 * kraftUpTo lens b + blCount lens (b + 1) := by
  rw [blCount, if_neg (Nat.succ_ne_zero b)]
  induction lens with
  | nil => rfl
  | cons l lens ih =>
    simp only [kraftUpTo, List.map_cons, List.sum_cons, List.count_cons, beq_iff_eq] at ih ⊢
    rw [ih]
    by_cases hlow : 1 ≤ l ∧ l ≤ b
    · have hpow : 2 ^ (b + 1 - l) = 2 * 2 ^ (b - l) := by
        rw [Nat.sub_add_comm hlow.2, Nat.pow_succ, Nat.mul_comm]
      rw [if_pos hlow, if_pos ⟨hlow.1, by omega⟩, if_neg (by omega), hpow]
      omega
    · rw [if_neg hlow]
      by_cases hnew : l = b + 1
      · rw [if_pos hnew, if_pos (by omega), hnew, Nat.sub_self, Nat.pow_zero]
        omega
      · rw [if_neg hnew, if_neg (by omega)]
        omega

/-- R301: `left` is what is not taken, and the set is over-subscribed where more is taken than there is. -/
theorem kraftLeft_eq (lens : List Nat) : ∀ b : Nat,
    kraftLeft lens b = if kraftUpTo lens b ≤ 2 ^ b then some (2 ^ b - kraftUpTo lens b) else none
  | 0 => by rw [kraftUpTo_zero]; rfl
  | b + 1 => by
    have hsucc := kraftUpTo_succ lens b
    rw [kraftLeft, kraftLeft_eq lens b, Nat.pow_succ]
    by_cases hb : kraftUpTo lens b ≤ 2 ^ b
    · rw [if_pos hb]
      dsimp only
      by_cases hfits : kraftUpTo lens (b + 1) ≤ 2 ^ b * 2
      · rw [if_neg (by omega), if_pos hfits]
        congr 1
        omega
      · rw [if_pos (by omega), if_neg hfits]
    · rw [if_neg hb, if_neg (by omega)]

theorem kraftSum_eq_kraftUpTo {lens : List Nat} (h : ∀ l ∈ lens, l ≤ 15) : kraftSum lens = kraftUpTo lens 15 := by
  induction lens with
  | nil => rfl
  | cons l lens ih =>
    have hl := h l List.mem_cons_self
    have ih := ih fun m hm => h m (List.mem_cons_of_mem l hm)
    simp only [kraftSum, kraftUpTo, List.map_cons, List.sum_cons] at ih ⊢
    by_cases hzero : l = 0
    · rw [List.filter_cons_of_neg (by simp [hzero]), ih, if_neg (by omega), Nat.zero_add]
    · rw [List.filter_cons_of_pos (by simp [hzero]), List.map_cons, List.sum_cons, ih, if_pos (by omega)]

/-- R301: after 15 bits, what is left and what is taken make up the code space, or too much is taken. -/
theorem kraftLeft_cases {lens : List Nat} (h : ∀ l ∈ lens, l ≤ 15) :
    (∃ left, kraftLeft lens 15 = some left ∧ left + kraftSum lens = 2 ^ 15) ∨
    (kraftLeft lens 15 = none ∧ 2 ^ 15 < kraftSum lens) := by
  have hleft := kraftLeft_eq lens 15
  rw [← kraftSum_eq_kraftUpTo h] at hleft
  by_cases hle : kraftSum lens ≤ 2 ^ 15
  · exact .inl ⟨_, hleft.trans (if_pos hle), Nat.sub_add_cancel hle⟩
  · exact .inr ⟨hleft.trans (if_neg hle), Nat.lt_of_not_le hle⟩

theorem completeLens_iff {lens : List Nat} (h : ∀ l ∈ lens, l ≤ 15) :
    completeLens lens = true ↔ kraftSum lens = 2 ^ 15 := by
  obtain ⟨left, hleft, hspace⟩ | ⟨hleft, hspace⟩ := kraftLeft_cases h
  · rw [completeLens, hleft, beq_iff_eq, Option.some_inj]
    omega
  · rw [completeLens, hleft, beq_iff_eq]
    exact ⟨fun hnone => (by cases hnone), fun hsum => by omega⟩

theorem acceptableLens_iff {lens : List Nat} (h : ∀ l ∈ lens, l ≤ 15) :
    acceptableLens lens = true ↔ AcceptableLengths lens := by
  have hall : lens.all (· ≤ 1) = true ↔ ∀ l ∈ lens, l ≤ 1 := by
    simp only [List.all_eq_true, decide_eq_true_eq]
  unfold acceptableLens
  obtain ⟨left, hleft, hspace⟩ | ⟨hleft, hspace⟩ := kraftLeft_cases h
  · rw [hleft]
    simp only [Bool.or_eq_true, beq_iff_eq, hall]
    exact ⟨Or.imp (by omega) fun hshort => ⟨by omega, hshort⟩, Or.imp (by omega) And.right⟩
  · rw [hleft]
    refine ⟨fun hfalse => (by cases hfalse), ?_⟩
    rintro (hsum | ⟨hsum, -⟩) <;> omega

end Sys2Proof.Machine

/-! ## The code-length code and its symbols (47_zlib_deflate_reference.md R298 to R301) -/

namespace Sys2Proof.Machine

/-- A set of lengths counts in the sum by its lengths only, wherever they stand. -/
theorem kraftUpTo_perm {xs ys : List Nat} (h : xs.Perm ys) (b : Nat) : kraftUpTo xs b = kraftUpTo ys b :=
  (h.map _).sum_nat

theorem kraftUpTo_append_zeros (xs : List Nat) (n b : Nat) :
    kraftUpTo (xs ++ List.replicate n 0) b = kraftUpTo xs b := by
  simp [kraftUpTo]

/-- R299: the places of the order are the 19 symbols, each once. -/
theorem perm_idxOf_codelenOrder : ((List.range 19).map codelenOrder.idxOf).Perm (List.range 19) := by decide

/-- R299: the lengths by symbol are the values read, each once, and zeros. -/
theorem codelenLens_perm {vals : List Nat} (h : vals.length ≤ 19) :
    (codelenLens vals).Perm (vals ++ List.replicate (19 - vals.length) 0) := by
  have horder : (codelenLens vals).Perm ((List.range 19).map (fun j => vals.getD j 0)) := by
    have := perm_idxOf_codelenOrder.map (fun j => vals.getD j 0)
    rwa [List.map_map] at this
  refine horder.trans (List.Perm.of_eq (List.ext_getElem ?_ fun j hj _ => ?_))
  · simp only [List.length_map, List.length_range, List.length_append, List.length_replicate]; omega
  · simp only [List.getElem_map, List.getElem_range, List.getD_eq_getElem?_getD, List.getElem_append]
    split
    next hlt => rw [List.getElem?_eq_getElem hlt]; rfl
    next hge => rw [List.getElem?_eq_none (Nat.le_of_not_lt hge), List.getElem_replicate]; rfl

theorem completeLens_codelenLens_iff {vals : List Nat} (hlen : vals.length ≤ 19) (h : ∀ l ∈ vals, l ≤ 15) :
    completeLens (codelenLens vals) = true ↔ kraftSum vals = 2 ^ 15 := by
  have hperm := codelenLens_perm hlen
  have hbound : ∀ l ∈ codelenLens vals, l ≤ 15 := by
    intro l hl
    obtain hval | hzero := List.mem_append.mp (hperm.mem_iff.mp hl)
    · exact h l hval
    · rw [List.eq_of_mem_replicate hzero]; omega
  rw [completeLens_iff hbound, kraftSum_eq_kraftUpTo hbound, kraftSum_eq_kraftUpTo h, kraftUpTo_perm hperm,
    kraftUpTo_append_zeros]

/-- R298: a dynamic block whose three counts can be read. -/
theorem deflateBlockDynamic_of_counts {w : Work} (final : Bool) {hlit hdist hclen : Nat}
    (hlit_read : readLsb w.input w.inf.bitPos 5 = some hlit)
    (hdist_read : readLsb w.input (w.inf.bitPos + 5) 5 = some hdist)
    (hclen_read : readLsb w.input (w.inf.bitPos + 10) 4 = some hclen) :
    deflateBlockDynamic final w =
      if hlit + 257 > 286 ∨ hdist + 1 > 30 then inflateError
      else
        (readFields (w.skipBits 14) 3 (hclen + 4)).elim inflateError fun r =>
          if completeLens (codelenLens r.1) then
            .running { r.2 with
              phase := .codeLengths
              inf := { r.2.inf with
                bfinal := final
                nLit := hlit + 257
                nDist := hdist + 1
                lens := []
                clCode := canonicalCode (codelenLens r.1) } }
          else inflateError := by
  have hsecond : readField (w.skipBits 5) 5 = some (hdist, w.skipBits 10) := readField_of_some hdist_read
  have hthird : readField (w.skipBits 10) 4 = some (hclen, w.skipBits 14) := readField_of_some hclen_read
  simp only [deflateBlockDynamic, readField_of_some hlit_read, hsecond, hthird]
  cases readFields (w.skipBits 14) 3 (hclen + 4) <;> rfl

/-- R312 case 8: a dynamic block one of whose three counts the input does not have. -/
theorem deflateBlockDynamic_of_cut {w : Work} (final : Bool)
    (h : readLsb w.input w.inf.bitPos 5 = none ∨ readLsb w.input (w.inf.bitPos + 5) 5 = none ∨
      readLsb w.input (w.inf.bitPos + 10) 4 = none) : deflateBlockDynamic final w = inflateError := by
  cases hlit_read : readLsb w.input w.inf.bitPos 5 with
  | none => simp only [deflateBlockDynamic, readField_of_none hlit_read]
  | some hlit =>
    cases hdist_read : readLsb w.input (w.inf.bitPos + 5) 5 with
    | none =>
      have hsecond : readField (w.skipBits 5) 5 = none := readField_of_none hdist_read
      simp only [deflateBlockDynamic, readField_of_some hlit_read, hsecond]
    | some hdist =>
      have hsecond : readField (w.skipBits 5) 5 = some (hdist, w.skipBits 10) := readField_of_some hdist_read
      have hnone : readLsb w.input (w.inf.bitPos + 10) 4 = none := by simpa [hlit_read, hdist_read] using h
      have hthird : readField (w.skipBits 10) 4 = none := readField_of_none hnone
      simp only [deflateBlockDynamic, readField_of_some hlit_read, hsecond, hthird]

/-- Settles O53: the lengths have three bits, so that the machine's test is the sum's. -/
theorem dynamicBlockEffect : Obligations.DynamicBlockEffect := by
  intro s final
  refine ⟨fun hcut => exec_raised rfl (deflateBlockDynamic_of_cut final hcut), ?_⟩
  intro hlit hdist hclen hlit_read hdist_read hclen_read
  have hblock : runSymbol (.deflateBlockDynamic final) s.work = _ :=
    deflateBlockDynamic_of_counts final hlit_read hdist_read hclen_read
  have hclen_lt := readLsb_lt hclen_read
  refine ⟨fun hmany => exec_raised rfl (hblock.trans (if_pos (by omega))), ?_, ?_⟩
  · rintro ⟨j, hj, hnone⟩
    have hfields : readFields (s.work.skipBits 14) 3 (hclen + 4) = none := readFields_of_none hj hnone
    refine exec_raised rfl (hblock.trans ?_)
    rw [hfields]
    (repeat' split) <;> rfl
  · intro hlit_le hdist_le vals hlen hvals
    have hfields : readFields (s.work.skipBits 14) 3 (hclen + 4) =
        some (vals, (s.work.skipBits 14).skipBits (3 * (hclen + 4))) := readFields_of_some hlen hvals
    have hsmall : ∀ l ∈ vals, l ≤ 15 := by
      intro l hl
      obtain ⟨j, hj, rfl⟩ := List.mem_iff_getElem.mp hl
      have hlt := readLsb_lt (hvals j (by omega))
      rw [List.getD_eq_getElem?_getD, List.getElem?_eq_getElem hj, Option.getD_some] at hlt
      omega
    have hcomplete := completeLens_codelenLens_iff (vals := vals) (by omega) hsmall
    rw [if_neg (by omega), hfields] at hblock
    refine ⟨fun hsum => exec_running rfl (hblock.trans (if_pos (hcomplete.mpr hsum))), fun hsum => ?_⟩
    exact exec_raised rfl (hblock.trans (if_neg fun h => hsum (hcomplete.mp h)))

/-- R300: a code-length symbol appends the lengths it stands for, its extra bits read. -/
theorem runSymbol_of_standsForLengths {i : Instr} {s : State} {xs : List Nat} {used : Nat}
    (h : StandsForLengths i s xs used) :
    isStreamSymbol i = true ∧ runSymbol i s.work = pushLens xs (s.work.skipBits used) := by
  obtain ⟨l, rfl, rfl, rfl⟩ | ⟨l, x, rfl, hlast, hx, rfl, rfl⟩ | ⟨x, rfl, hx, rfl, rfl⟩ | ⟨x, rfl, hx, rfl, rfl⟩ := h
  · exact ⟨rfl, rfl⟩
  · exact ⟨rfl, by simp only [runSymbol, deflateCodelen16, hlast, readField_of_some hx]⟩
  · exact ⟨rfl, by simp only [runSymbol, deflateCodelen17, readField_of_some hx]⟩
  · exact ⟨rfl, by simp only [runSymbol, deflateCodelen18, readField_of_some hx]⟩

/-- R300, R301: the test that the complete sequence of lengths has to pass. -/
theorem finishLens_eq {w : Work} (h : ∀ l ∈ w.inf.lens, l ≤ 15) :
    ((w.inf.lens.take w.inf.nLit).getD 256 0 ≠ 0 ∧ AcceptableLengths (w.inf.lens.take w.inf.nLit) ∧
        AcceptableLengths (w.inf.lens.drop w.inf.nLit) ∧
      finishLens w = .running { w with
        phase := .data
        inf := { w.inf with
          litCode := canonicalCode (w.inf.lens.take w.inf.nLit)
          distCode := canonicalCode (w.inf.lens.drop w.inf.nLit) } }) ∨
    (((w.inf.lens.take w.inf.nLit).getD 256 0 = 0 ∨ ¬ AcceptableLengths (w.inf.lens.take w.inf.nLit) ∨
        ¬ AcceptableLengths (w.inf.lens.drop w.inf.nLit)) ∧ finishLens w = inflateError) := by
  have hlit := acceptableLens_iff (lens := w.inf.lens.take w.inf.nLit) fun l hl => h l (List.mem_of_mem_take hl)
  have hdist := acceptableLens_iff (lens := w.inf.lens.drop w.inf.nLit) fun l hl => h l (List.mem_of_mem_drop hl)
  rw [← hlit, ← hdist, finishLens]
  by_cases hend : (w.inf.lens.take w.inf.nLit).getD 256 0 = 0
  · exact .inr ⟨.inl hend, if_pos hend⟩
  rw [if_neg hend]
  by_cases hboth : (acceptableLens (w.inf.lens.take w.inf.nLit) && acceptableLens (w.inf.lens.drop w.inf.nLit)) = true
  · rw [if_pos hboth]
    rw [Bool.and_eq_true] at hboth
    exact .inl ⟨hend, hboth.1, hboth.2, rfl⟩
  · rw [if_neg hboth]
    rw [Bool.and_eq_true, Classical.not_and_iff_not_or_not] at hboth
    exact .inr ⟨.inr hboth, rfl⟩

/-- Settles O54: too few, too many or exactly as many lengths as the block has. -/
theorem codeLengthSymbolEffects : Obligations.CodeLengthSymbolEffects := by
  intro s
  refine ⟨fun i xs all used hi hall hle => ?_, fun hnil => exec_raised rfl ?_, fun hnone => exec_raised rfl ?_,
    fun hnone => exec_raised rfl ?_, fun hnone => exec_raised rfl ?_⟩
  · obtain ⟨hsymbol, hrun⟩ := runSymbol_of_standsForLengths hi
    subst hall
    let w := s.work.skipBits used
    let w' : Work := { w with inf := { w.inf with lens := w.inf.lens ++ xs } }
    have hpush : pushLens xs w =
      if (s.work.inf.lens ++ xs).length > s.work.inf.nLit + s.work.inf.nDist then inflateError
      else if (s.work.inf.lens ++ xs).length = s.work.inf.nLit + s.work.inf.nDist then finishLens w'
      else .running w' := rfl
    have hfinish := finishLens_eq (w := w') hle
    rw [show s.work.skipBits used = w from rfl, hpush] at hrun
    refine ⟨fun hfew => ?_, fun hmany => ?_, fun hfull hend hlit hdist => ?_, fun hfull hbad => ?_⟩
    · rw [if_neg (by omega), if_neg (by omega)] at hrun
      exact exec_running hsymbol hrun
    · rw [if_pos hmany] at hrun
      exact exec_raised hsymbol hrun
    all_goals
      rw [if_neg (by omega), if_pos hfull] at hrun
      obtain ⟨hend', hlit', hdist', hgood⟩ | ⟨hbad', hfault⟩ := hfinish
    · exact exec_running hsymbol (hrun.trans hgood)
    · obtain h | h | h := hbad'
      · exact absurd h hend
      · exact absurd hlit h
      · exact absurd hdist h
    · obtain h | h | h := hbad
      · exact absurd h hend'
      · exact absurd hlit' h
      · exact absurd hdist' h
    · exact exec_raised hsymbol (hrun.trans hfault)
  · simp only [runSymbol, deflateCodelen16, hnil, List.getLast?_nil]; rfl
  · rw [runSymbol, deflateCodelen16, readField_of_none hnone]
    cases s.work.inf.lens.getLast? <;> rfl
  · rw [runSymbol, deflateCodelen17, readField_of_none hnone]; rfl
  · rw [runSymbol, deflateCodelen18, readField_of_none hnone]; rfl

end Sys2Proof.Machine

/-! ## The encode commands of an open session (20_memory.md R66 to R68, 60_exceptions.md R352, R354) -/

namespace Sys2Proof.Machine

/-- R66: what a state whose sinks are `s`'s with `x` appended to `k` shows of its sinks. -/
theorem grewBy_of_append {s t : State} {k : SinkId} {x : Bytes} (h : t.sinks = s.sinks.append k x)
    (hwf : s.sinks.wf = true) : GrewBy s t k x := by
  intro j
  rw [h]
  split
  next hj => rw [hj, Memory.read_append_self _ _ _ hwf]
  next hj => rw [Memory.read_append_of_ne _ hj]

theorem encodeBlock_some_of_active {P : Parameters} {u : UnitId} {bytes : Bytes}
    {feed : Bytes → State → Bytes × State} {s : State} (h : s.active u = true) :
    encodeBlock P u (some bytes) feed s = emitThen P u (feed bytes s).1 id (feed bytes s).2 := by
  simp only [encodeBlock, h, Bool.not_true, Bool.false_eq_true, if_false]

theorem endEncode_of_active {P : Parameters} {u : UnitId} {tail : State → Bytes} {s : State}
    (h : s.active u = true) : endEncode P u tail s = emitThen P u (tail s) (closeSession u P.zInit) s := by
  simp only [endEncode, h, Bool.not_true, Bool.false_eq_true, if_false]

/-- The end of an encode command under accepted writes followed by a refused one (R67, R68, R354). -/
theorem emitThen_refused (P : Parameters) (u : UnitId) (x : Bytes) (after : State → State) (s : State) {n m : Nat}
    {ws rest : List WriteAnswer} (hans : s.answers = ws ++ ⟨n, false⟩ :: rest)
    (hacc : ∀ a ∈ ws, a.accepts = true) (hm : m = carried (writeCap P u x) ws x.length) :
    (m < x.length → emitThen P u x after s =
      respond .sinkFailure [] (closeSession u P.zInit (s.afterWrites (ws.length + 1) (s.sink u) (x.take m)))) ∧
    (¬ m < x.length → ∃ used, used ≤ ws.length ∧
      emitThen P u x after s = returnOk (after (s.afterWrites used (s.sink u) x))) := by
  subst hm
  obtain ⟨hcut, hemit⟩ | ⟨hwhole, used, hused, hemit⟩ := emit_refused P u x s hans hacc
  · exact ⟨fun _ => by simp only [emitThen, hemit, raise_closesSession], fun h => absurd hcut h⟩
  · exact ⟨fun h => absurd h hwhole, fun _ => ⟨used, hused, by simp only [emitThen, hemit]⟩⟩

theorem exec_hexEncodeBlock_of_active {s : State} (bs : Bytes) (h : s.hex.active = true) :
    exec (.hexEncodeBlock (some bs)) s = .next (emitThen Config.parameters .hex (bs.flatMap hexPair) id s) := by
  rw [← hexText_eq_flatMap]
  exact congrArg Host.Outcome.next (encodeBlock_some_of_active (u := .hex) h)

theorem exec_a85EncodeBlock_of_active {s : State} (bs : Bytes) (h : s.a85.active = true) :
    exec (.a85EncodeBlock (some bs)) s =
      .next (emitThen Config.parameters .a85 (a85Feed bs s).1 id (a85Feed bs s).2) :=
  congrArg Host.Outcome.next (encodeBlock_some_of_active (u := .a85) h)

theorem exec_a85EndEncode_of_active {s : State} {q : Bytes} (h : s.a85.active = true) (hheld : s.holdsBack q) :
    exec .a85EndEncode s = .next (emitThen Config.parameters .a85 (a85Partial q)
      (closeSession .a85 Config.encoder.zInit) s) := by
  rw [← a85Tail_eq hheld]
  exact congrArg Host.Outcome.next (endEncode_of_active (u := .a85) h)

theorem exec_flateEncodeBlock_of_active {s : State} (bs : Bytes) (h : s.flate.active = true) :
    exec (.flateEncodeBlock (some bs)) s = .next (emitThen Config.parameters .flate
      (Config.encoder.zFeed s.flateZ bs).2 id { s with flateZ := (Config.encoder.zFeed s.flateZ bs).1 }) :=
  congrArg Host.Outcome.next (encodeBlock_some_of_active (u := .flate) h)

theorem exec_flateEndEncode_of_active {s : State} (h : s.flate.active = true) :
    exec .flateEndEncode s = .next (emitThen Config.parameters .flate (Config.encoder.zFinish s.flateZ)
      (closeSession .flate Config.encoder.zInit) s) :=
  congrArg Host.Outcome.next (endEncode_of_active (u := .flate) h)

/-- Settles O20: the emission is the text of the input, and its writes are accepted. -/
theorem hexEncodeBlockEmitsDigits : Obligations.HexEncodeBlockEmitsDigits := by
  intro bs s hactive hacc
  obtain ⟨used, -, hexec⟩ := exec_hexEncodeBlock_accepted hactive hacc
  rw [hexText_eq_flatMap] at hexec
  exact ⟨used, _, hexec, rfl, grewBy_of_append rfl⟩

/-- Settles O21: the emission is the text of the complete groups, and the state keeps the rest. -/
theorem a85EncodeBlockEmitsGroups : Obligations.A85EncodeBlockEmitsGroups := by
  intro q bs s hactive hheld hacc
  obtain ⟨used, -, hexec⟩ := exec_a85EncodeBlock_accepted hactive hheld hacc
  exact ⟨used, _, _, _, hexec, rfl, (a85Feed_spec bs hheld).2, grewBy_of_append rfl⟩

/-- R185: with its writes accepted, a block appends what the compressor gives. -/
theorem exec_flateEncodeBlock_accepted {s : State} {bs : Bytes} (hactive : s.flate.active = true)
    (hacc : s.writesAccepted (Config.encoder.zFeed s.flateZ bs).2.length) :
    ∃ used, used ≤ (Config.encoder.zFeed s.flateZ bs).2.length ∧ exec (.flateEncodeBlock (some bs)) s =
      .next (returnOk (({ s with flateZ := (Config.encoder.zFeed s.flateZ bs).1 } : State).afterWrites used
        s.flate.sink (Config.encoder.zFeed s.flateZ bs).2)) := by
  obtain ⟨used, hused, hemit⟩ := emitThen_accepted Config.parameters .flate
    (Config.encoder.zFeed s.flateZ bs).2 id { s with flateZ := (Config.encoder.zFeed s.flateZ bs).1 } hacc
  exact ⟨used, hused, (exec_flateEncodeBlock_of_active bs hactive).trans (congrArg Host.Outcome.next hemit)⟩

/-- Settles O22: the emission is what the compressor gives. -/
theorem flateEncodeBlockFeedsCompressor : Obligations.FlateEncodeBlockFeedsCompressor := by
  intro bs s hactive hacc
  obtain ⟨used, -, hexec⟩ := exec_flateEncodeBlock_accepted hactive hacc
  exact ⟨used, _, hexec, rfl, grewBy_of_append rfl⟩

/-- R187: with its writes accepted, the end of a session appends the final flush. -/
theorem exec_flateEndEncode_accepted {s : State} (hactive : s.flate.active = true)
    (hacc : s.writesAccepted (Config.encoder.zFinish s.flateZ).length) :
    ∃ used, used ≤ (Config.encoder.zFinish s.flateZ).length ∧ exec .flateEndEncode s = .next (returnOk
      (closeSession .flate Config.encoder.zInit
        (s.afterWrites used s.flate.sink (Config.encoder.zFinish s.flateZ)))) := by
  obtain ⟨used, hused, hemit⟩ := emitThen_accepted Config.parameters .flate (Config.encoder.zFinish s.flateZ)
    (closeSession .flate Config.encoder.zInit) s hacc
  exact ⟨used, hused, (exec_flateEndEncode_of_active hactive).trans (congrArg Host.Outcome.next hemit)⟩

/-- Settles O23: HEX has no tail; the tails of A85 and FLATE are their emissions. -/
theorem endEncodeFlushesAndCloses : Obligations.EndEncodeFlushesAndCloses := by
  intro s
  refine ⟨exec_hexEndEncode_of_active, fun q hactive hheld hacc => ?_, fun hactive hacc => ?_⟩
  · obtain ⟨used, -, hexec⟩ := exec_a85EndEncode_accepted hactive hheld hacc
    exact ⟨used, _, hexec, rfl, grewBy_of_append rfl⟩
  · obtain ⟨used, -, hexec⟩ := exec_flateEndEncode_accepted hactive hacc
    exact ⟨used, _, hexec, rfl, grewBy_of_append rfl⟩

theorem ne_of_length_lt {x y : Bytes} (h : x.length < y.length) : x ≠ y :=
  fun heq => Nat.ne_of_lt h (congrArg List.length heq)

/-- Settles O24: `emitThen` has these two ends, and closing a session rewrites what the input had changed. -/
theorem encodeEmitsAllOrFails : Obligations.EncodeEmitsAllOrFails := by
  intro s
  refine ⟨fun bs hactive => ?_, fun bs q hactive hheld => ?_, fun q hactive hheld => ?_, fun bs hactive => ?_,
    fun hactive => ?_⟩
  · rw [exec_hexEncodeBlock_of_active bs hactive]
    obtain ⟨used, -, h | ⟨sent, hlen, hsent, h⟩⟩ :=
      emitThen_cases Config.parameters .hex (bs.flatMap hexPair) id s
    · exact ⟨used, _, List.prefix_refl _, .inl ⟨rfl, congrArg Host.Outcome.next h⟩⟩
    · exact ⟨used, sent, hsent, .inr ⟨ne_of_length_lt hlen, congrArg Host.Outcome.next h⟩⟩
  · obtain ⟨htext, hrest⟩ := a85Feed_spec bs hheld
    rw [exec_a85EncodeBlock_of_active bs hactive, htext]
    obtain ⟨used, -, h | ⟨sent, hlen, hsent, h⟩⟩ :=
      emitThen_cases Config.parameters .a85 (a85Groups (q ++ bs)) id (a85Feed bs s).2
    · exact ⟨used, _, List.prefix_refl _,
        .inl ⟨rfl, (a85Feed bs s).2.a85Tuple, (a85Feed bs s).2.a85Count, _, congrArg Host.Outcome.next h, rfl, hrest⟩⟩
    · exact ⟨used, sent, hsent, .inr ⟨ne_of_length_lt hlen, congrArg Host.Outcome.next h⟩⟩
  · rw [exec_a85EndEncode_of_active hactive hheld]
    obtain ⟨used, -, h | ⟨sent, hlen, hsent, h⟩⟩ :=
      emitThen_cases Config.parameters .a85 (a85Partial q) (closeSession .a85 Config.encoder.zInit) s
    · exact ⟨used, _, List.prefix_refl _, by rw [h, if_pos rfl]; rfl⟩
    · exact ⟨used, sent, hsent, by rw [h, if_neg (ne_of_length_lt hlen)]; rfl⟩
  · rw [exec_flateEncodeBlock_of_active bs hactive]
    obtain ⟨used, -, h | ⟨sent, hlen, hsent, h⟩⟩ := emitThen_cases Config.parameters .flate
      (Config.encoder.zFeed s.flateZ bs).2 id { s with flateZ := (Config.encoder.zFeed s.flateZ bs).1 }
    · exact ⟨used, _, List.prefix_refl _, .inl ⟨rfl, congrArg Host.Outcome.next h⟩⟩
    · exact ⟨used, sent, hsent, .inr ⟨ne_of_length_lt hlen, congrArg Host.Outcome.next h⟩⟩
  · rw [exec_flateEndEncode_of_active hactive]
    obtain ⟨used, -, h | ⟨sent, hlen, hsent, h⟩⟩ := emitThen_cases Config.parameters .flate
      (Config.encoder.zFinish s.flateZ) (closeSession .flate Config.encoder.zInit) s
    · exact ⟨used, _, List.prefix_refl _, by rw [h, if_pos rfl]; rfl⟩
    · exact ⟨used, sent, hsent, by rw [h, if_neg (ne_of_length_lt hlen)]; rfl⟩

/-- Settles O25: `emitThen_refused` for each emission. -/
theorem refusedWriteFaults : Obligations.RefusedWriteFaults := by
  intro s ws rest n hans hacc
  have hfeed {t : State} (h : t.answers = s.answers) : t.answers = ws ++ ⟨n, false⟩ :: rest := h.trans hans
  refine ⟨?_, ?_, ?_, ?_, ?_⟩
  · rintro bs x m hactive rfl hm hcut
    rw [exec_hexEncodeBlock_of_active bs hactive]
    exact congrArg Host.Outcome.next ((emitThen_refused Config.parameters .hex _ id s hans hacc hm).1 hcut)
  · rintro bs q x m hactive hheld rfl hm hcut
    rw [exec_a85EncodeBlock_of_active bs hactive, (a85Feed_spec bs hheld).1]
    exact congrArg Host.Outcome.next
      ((emitThen_refused Config.parameters .a85 _ id (a85Feed bs s).2 (hfeed rfl) hacc hm).1 hcut)
  · rintro q x m hactive hheld rfl hm hcut
    rw [exec_a85EndEncode_of_active hactive hheld]
    exact congrArg Host.Outcome.next ((emitThen_refused Config.parameters .a85 _ _ s hans hacc hm).1 hcut)
  · rintro bs x m hactive rfl hm
    rw [exec_flateEncodeBlock_of_active bs hactive]
    obtain ⟨hfault, hok⟩ := emitThen_refused Config.parameters .flate (Config.encoder.zFeed s.flateZ bs).2 id
      { s with flateZ := (Config.encoder.zFeed s.flateZ bs).1 } (hfeed rfl) hacc hm
    refine ⟨fun hcut => congrArg Host.Outcome.next (hfault hcut), fun hwhole => ?_⟩
    obtain ⟨used, hused, h⟩ := hok hwhole
    exact ⟨used, hused, congrArg Host.Outcome.next h⟩
  · rintro x m hactive rfl hm hcut
    rw [exec_flateEndEncode_of_active hactive]
    exact congrArg Host.Outcome.next ((emitThen_refused Config.parameters .flate _ _ s hans hacc hm).1 hcut)

end Sys2Proof.Machine

/-! ## Splitting the input of a block (40_hex.md R132, 41_ascii85.md R155) -/

namespace Sys2Proof.Machine

/-- R153: feeding bytes one after the other, so also in two parts. -/
theorem feedTuple_append (a b : Bytes) : ∀ (t : BitVec 32) (n : BitVec 3), feedTuple (a ++ b) t n =
    ((feedTuple b (feedTuple a t n).1 (feedTuple a t n).2.1).1,
      (feedTuple b (feedTuple a t n).1 (feedTuple a t n).2.1).2.1,
      (feedTuple a t n).2.2 ++ (feedTuple b (feedTuple a t n).1 (feedTuple a t n).2.1).2.2) := by
  induction a with
  | nil => exact fun t n => rfl
  | cons x a ih =>
    intro t n
    simp only [List.cons_append, feedTuple]
    split
    · simp only [ih, List.append_assoc]
    · rw [ih]

/-- R153: each byte completes at most one group. -/
theorem length_feedTuple_le (bs : Bytes) : ∀ (t : BitVec 32) (n : BitVec 3),
    (feedTuple bs t n).2.2.length ≤ 5 * bs.length := by
  induction bs with
  | nil => exact fun _ _ => Nat.le_refl 0
  | cons x bs ih =>
    intro t n
    simp only [feedTuple, List.length_cons]
    split
    · have hgroup : (groupText (placeByte t n x)).length ≤ 5 := by
        rw [groupText_eq]
        split
        · exact Nat.le_add_left 1 4
        · exact Nat.le_refl 5
      have hrest := ih 0 0
      rw [List.length_append]
      omega
    · exact Nat.le_trans (ih _ _) (by omega)

theorem a85Feed_append (a b : Bytes) (s : State) :
    a85Feed (a ++ b) s =
      ((a85Feed a s).1 ++ (a85Feed b (a85Feed a s).2).1, (a85Feed b (a85Feed a s).2).2) := by
  simp only [a85Feed, feedTuple_append]

/-- R153: a block on an active unit, whatever it holds back, with its writes accepted. -/
theorem exec_a85EncodeBlock_feed {s : State} {bs : Bytes} {m : Nat} (hactive : s.a85.active = true)
    (hacc : s.writesAccepted (5 * bs.length + m)) :
    ∃ used t, exec (.a85EncodeBlock (some bs)) s = .next t ∧
      t = returnOk ((a85Feed bs s).2.afterWrites used s.a85.sink (a85Feed bs s).1) ∧ t.writesAccepted m := by
  have hlen : (a85Feed bs s).1.length ≤ 5 * bs.length := length_feedTuple_le bs _ _
  have hemission : (a85Feed bs s).2.writesAccepted (a85Feed bs s).1.length :=
    hacc.mono (n := 5 * bs.length + m) (by omega)
  obtain ⟨used, hused, hemit⟩ := emitThen_accepted Config.parameters .a85 (a85Feed bs s).1 id
    (a85Feed bs s).2 hemission
  refine ⟨used, _, (exec_a85EncodeBlock_of_active bs hactive).trans (congrArg Host.Outcome.next hemit), rfl, ?_⟩
  exact State.writesAccepted.afterWrites (s := (a85Feed bs s).2) hacc (Nat.le_trans hused hlen)
    s.a85.sink (a85Feed bs s).1

/-- Settles O29: the texts are appended one after the other, and A85 holds back the same. -/
theorem splitInvariance : Obligations.SplitInvariance := by
  intro s a b
  refine ⟨fun hactive hacc => ?_, fun hactive hacc => ?_⟩
  · obtain ⟨whole, -, hwhole⟩ := exec_hexEncodeBlock_accepted hactive hacc
    rw [List.length_append, Nat.mul_add] at hacc
    obtain ⟨first, hfirst_le, hfirst⟩ := exec_hexEncodeBlock_accepted hactive (hacc.mono (Nat.le_add_right _ _))
    have hacc' := hacc.afterWrites hfirst_le s.hex.sink (hexText a)
    obtain ⟨second, -, hsecond⟩ := exec_hexEncodeBlock_accepted (bs := b)
      (s := returnOk (s.afterWrites first s.hex.sink (hexText a))) hactive hacc'
    refine ⟨_, _, (runAll_cons hfirst _).trans (runAll_cons hsecond _), runAll_cons hwhole _, ?_, rfl, rfl⟩
    refine (Memory.append_append _ _ _ _).trans ?_
    rw [← hexText_append]
    rfl
  · obtain ⟨whole, u, hwhole, hu, -⟩ := exec_a85EncodeBlock_feed (m := 0) hactive hacc
    rw [List.length_append, Nat.mul_add] at hacc
    obtain ⟨first, t, hfirst, ht, hacc'⟩ := exec_a85EncodeBlock_feed hactive hacc
    subst ht
    obtain ⟨second, t', hsecond, ht', -⟩ := exec_a85EncodeBlock_feed (m := 0) (bs := b)
      (s := returnOk ((a85Feed a s).2.afterWrites first s.a85.sink (a85Feed a s).1)) hactive hacc'
    subst hu ht'
    refine ⟨_, _, (runAll_cons hfirst _).trans (runAll_cons hsecond _), runAll_cons hwhole _, ?_, ?_, ?_, rfl, rfl⟩
    · rw [a85Feed_append]
      exact Memory.append_append _ _ _ _
    · rw [a85Feed_append]; rfl
    · rw [a85Feed_append]; rfl

end Sys2Proof.Machine

/-! ## FLATE: the result of a decode up to the PNG rows (42_flate.md R189, 43_predictor.md R210 to R215) -/

namespace Sys2Proof.Machine

theorem exec_flateDecode (bs : Bytes) (p : Option Params) (s : State) :
    exec (.flateDecode (some bs) p) s = deliver (flateRun inflate bs p) s := rfl

theorem deliver_done (w : Work) (s : State) : deliver (.done w) s = .next (s.decodeDone w.out) := rfl

theorem deliver_raised (e : Status) (s : State) : deliver (.raised e) s = .next (s.decodeFault e) := rfl

/-- R210: the first turn of predictor reversal is that of the Predictor value's class. -/
theorem streamNext_predictor {w : Work} (hphase : w.phase = .predictor) :
    streamNext w = runSymbol (decodePredictor w.pred.predictor) w := by
  simp only [streamNext, fetch, hphase]

theorem flateRun_of_none {bs : Bytes} (h : inflate bs = none) (p : Option Params) :
    flateRun inflate bs p = .raised .decompressionError := by
  simp only [flateRun, h, inflateError]

theorem flateRun_of_noParams {bs y : Bytes} (h : inflate bs = some y) :
    flateRun inflate bs none = .done { flateStart bs none with out := y } := by
  simp only [flateRun, h]

/-- R189: with `PARAMS`, all of inflate and then predictor reversal. -/
theorem flateRun_of_params {bs y : Bytes} (h : inflate bs = some y) (q : Params) :
    flateRun inflate bs (some q) = runStream untilEnd (y.length + 2) (reversalStart bs y q) := by
  simp only [flateRun, h]

/-- R210: what the first turn of predictor reversal gives, where it ends the command. -/
theorem streamNext_reversalStart (bs y : Bytes) (q : Params) :
    streamNext (reversalStart bs y q) =
      runSymbol (decodePredictor (q.predictor.getD 1)) (reversalStart bs y q) :=
  streamNext_predictor rfl

theorem exec_flateDecode_of_raised {bs y : Bytes} {q : Params} {e : Status} (h : inflate bs = some y)
    (hturn : streamNext (reversalStart bs y q) = .raised e) (s : State) :
    exec (.flateDecode (some bs) (some q)) s = .next (s.decodeFault e) := by
  rw [exec_flateDecode, flateRun_of_params h, runStream_untilEnd_of_raised hturn, deliver_raised]

/-- R193, R211: Predictor 1, present or by default, gives the inflated bytes. -/
theorem exec_flateDecode_of_predictorNone {bs y : Bytes} {q : Params} (h : inflate bs = some y)
    (hq : q.predictor.getD 1 = 1) (s : State) :
    exec (.flateDecode (some bs) (some q)) s = .next (s.decodeDone y) := by
  have hturn : streamNext (reversalStart bs y q) = .done { reversalStart bs y q with out := y } := by
    rw [streamNext_reversalStart, hq]; rfl
  rw [exec_flateDecode, flateRun_of_params h, runStream_untilEnd_of_done hturn, deliver_done]

/-- Settles O46: the turn of each class of the Predictor value. -/
theorem flateDecodeOrder : Obligations.FlateDecodeOrder := by
  intro bs s
  refine ⟨fun hnone p => ?_, fun y hy => ⟨?_, fun q => ⟨fun hq => exec_flateDecode_of_predictorNone hy hq s,
    fun hq => exec_flateDecode_of_raised hy ?_ s, fun hq => exec_flateDecode_of_raised hy ?_ s,
    fun hq hbad => exec_flateDecode_of_raised hy ?_ s⟩⟩⟩
  · rw [exec_flateDecode, flateRun_of_none hnone, deliver_raised]
  · rw [exec_flateDecode, flateRun_of_noParams hy, deliver_done]
  · rw [streamNext_reversalStart, hq]; rfl
  · have hclass : isUndefinedPredictor (q.predictor.getD 1) = true := by
      simp only [isUndefinedPredictor, Bool.or_eq_true, Bool.and_eq_true, decide_eq_true_eq]
      exact hq
    rw [streamNext_reversalStart, decodePredictor_undefined hclass]
    rfl
  · rw [streamNext_reversalStart, decodePredictor_png hq]
    exact if_pos hbad

end Sys2Proof.Machine

/-! ## FLATE: a session and its inputs (42_flate.md R182 to R187, R194, 10_state.md R47 I-d) -/

namespace Sys2Proof.Machine

theorem exec_flateBeginEncode_of_inactive {s : State} {k : SinkId} (hactive : s.flate.active = false)
    (hk : k ≠ 0) :
    exec (.flateBeginEncode k) s =
      .next (returnOk ((s.setSession .flate ⟨true, k⟩).clearBuffers .flate Config.encoder.zInit)) := by
  refine congrArg Host.Outcome.next
    ((beginEncode_eq .flate k (·.clearBuffers .flate Config.encoder.zInit) s).trans ?_)
  rw [State.active, session_flate, if_neg (by simp [hactive]), if_neg hk]

/-- The blocks of an open session, the writes for them and `n` more accepted: the session stays open, its sink
holds what the compressor gave, its context is the compressor's. -/
theorem runAll_flateEncodeBlocks (blocks : List Bytes) (n : Nat) : ∀ {s : State}, s.flate.active = true →
    s.writesAccepted ((feedAll Config.encoder.zFeed s.flateZ blocks).2.length + n) →
    ∃ t, runAll (blocks.map (fun b => .flateEncodeBlock (some b))) s = some t ∧ t.flate = s.flate ∧
      t.sinks = s.sinks.append s.flate.sink (feedAll Config.encoder.zFeed s.flateZ blocks).2 ∧
      t.flateZ = (feedAll Config.encoder.zFeed s.flateZ blocks).1 ∧ t.writesAccepted n := by
  induction blocks with
  | nil =>
    intro s _ hacc
    exact ⟨s, rfl, rfl, (Memory.append_nil _ _).symm, rfl, hacc.mono (Nat.le_add_left _ _)⟩
  | cons b blocks ih =>
    intro s hactive hacc
    simp only [feedAll, List.length_append, Nat.add_assoc] at hacc
    obtain ⟨used, hused, hexec⟩ := exec_flateEncodeBlock_accepted hactive (hacc.mono (Nat.le_add_right _ _))
    obtain ⟨t, hrun, hsession, hsinks, hz, hmore⟩ := ih
      (s := returnOk (({ s with flateZ := (Config.encoder.zFeed s.flateZ b).1 } : State).afterWrites used
        s.flate.sink (Config.encoder.zFeed s.flateZ b).2)) hactive
      (hacc.afterWrites hused s.flate.sink (Config.encoder.zFeed s.flateZ b).2)
    exact ⟨t, (runAll_cons hexec _).trans hrun, hsession, hsinks.trans (Memory.append_append _ _ _ _), hz, hmore⟩

/-- A session from its start, the writes for its blocks and `n` more accepted. -/
theorem runAll_flateBegin_blocks {s : State} {k : SinkId} (blocks : List Bytes) (n : Nat)
    (hactive : s.flate.active = false) (hk : k ≠ 0)
    (hacc : s.writesAccepted ((feedAll Config.encoder.zFeed Config.encoder.zInit blocks).2.length + n)) :
    ∃ t, runAll (.flateBeginEncode k :: blocks.map (fun b => .flateEncodeBlock (some b))) s = some t ∧
      t.flate = ⟨true, k⟩ ∧
      t.sinks = s.sinks.append k (feedAll Config.encoder.zFeed Config.encoder.zInit blocks).2 ∧
      t.flateZ = (feedAll Config.encoder.zFeed Config.encoder.zInit blocks).1 ∧ t.writesAccepted n := by
  obtain ⟨t, hrun, hsession, hsinks, hz, hmore⟩ := runAll_flateEncodeBlocks blocks n
    (s := returnOk ((s.setSession .flate ⟨true, k⟩).clearBuffers .flate Config.encoder.zInit)) rfl hacc
  exact ⟨t, (runAll_cons (exec_flateBeginEncode_of_inactive hactive hk) _).trans hrun, hsession, hsinks, hz, hmore⟩

/-- Settles O34: what was appended and the rest of the stream are what FlateContract speaks of. -/
theorem flateSessionHoldsItsInput : Obligations.FlateSessionHoldsItsInput := by
  intro s k blocks hactive hk hwf hacc
  obtain ⟨t, hrun, hsession, hsinks, hz, -⟩ := runAll_flateBegin_blocks blocks 0 hactive hk hacc
  refine ⟨t, (feedAll Config.encoder.zFeed Config.encoder.zInit blocks).2, hrun, hsession, ?_, ?_⟩
  · rw [hsinks, Memory.read_append_self _ _ _ hwf]
  · rw [hz]
    exact Config.encoder.contract blocks

/-- R118: a whole session, its writes accepted: it ends with `OK` and closed, and its sink has the whole stream
more. -/
theorem runAll_flateSession {s : State} {k : SinkId} (blocks : List Bytes) {z : ZState} {x : Bytes}
    (hfeed : feedAll Config.encoder.zFeed Config.encoder.zInit blocks = (z, x))
    (hactive : s.flate.active = false) (hk : k ≠ 0)
    (hacc : s.writesAccepted (x ++ Config.encoder.zFinish z).length) :
    ∃ t, runAll (flateSession k blocks) s = some t ∧ t.status = .ok ∧ t.flate = ⟨false, 0⟩ ∧
      t.sinks = s.sinks.append k (x ++ Config.encoder.zFinish z) := by
  rw [List.length_append] at hacc
  obtain ⟨t, hrun, hsession, hsinks, hz, hmore⟩ :=
    runAll_flateBegin_blocks blocks (Config.encoder.zFinish z).length hactive hk (by rw [hfeed]; exact hacc)
  rw [hfeed] at hsinks hz
  have hopen : t.flate.active = true := by rw [hsession]
  have hsink : t.flate.sink = k := by rw [hsession]
  obtain ⟨used, -, hend⟩ := exec_flateEndEncode_accepted hopen (by rw [hz]; exact hmore)
  refine ⟨returnOk (closeSession .flate Config.encoder.zInit
    (t.afterWrites used t.flate.sink (Config.encoder.zFinish t.flateZ))), ?_, rfl, rfl, ?_⟩
  · exact (runAll_append (js := [.flateEndEncode]) hrun).trans (runAll_cons hend [])
  · calc t.sinks.append t.flate.sink (Config.encoder.zFinish t.flateZ)
      _ = (s.sinks.append k x).append k (Config.encoder.zFinish z) := by rw [hsinks, hsink, hz]
      _ = s.sinks.append k (x ++ Config.encoder.zFinish z) := Memory.append_append _ _ _ _

/-- Settles O33: the session writes a stream that inflates to its blocks by FlateContract, and Predictor 1 gives
what is inflated. -/
theorem flateRoundTrip : Obligations.FlateRoundTrip := by
  intro s k blocks p hactive hk hwf hempty hacc hp
  obtain ⟨t, hrun, hstatus, hclosed, hsinks⟩ := runAll_flateSession blocks rfl hactive hk hacc
  have hinflate : inflate (t.sinks.read k) = some blocks.flatten := by
    rw [hsinks, Memory.read_append_self _ _ _ hwf, hempty, List.nil_append]
    exact Config.encoder.contract blocks
  refine ⟨t, hrun, hstatus, hclosed, ?_⟩
  cases p with
  | none => rw [exec_flateDecode, flateRun_of_noParams hinflate, deliver_done]
  | some q => exact exec_flateDecode_of_predictorNone hinflate (hp q rfl) t

end Sys2Proof.Machine

/-! ## What a turn of a decode loop that goes on can do: the byte streams (30_encoding.md R117) -/

namespace Sys2Proof.Machine

/-- One turn of a hex stream runs the class of the byte at the cursor, the cursor past it (R134). -/
theorem streamNext_hexByte {w : Work} {c : Byte} (hphase : w.phase = .hex) (hread : w.input[w.ip]? = some c) :
    streamNext w = runSymbol (decodeHexChar c) { w with ip := w.ip + 1 } := by
  simp only [streamNext, fetch, hphase, hread]

theorem streamNext_hexInputEnd {w : Work} (hphase : w.phase = .hex) (hread : w.input[w.ip]? = none) :
    streamNext w = hexEndOfInput w := by
  simp only [streamNext, fetch, hphase, hread, runSymbol]

/-- One turn of an Ascii85 stream runs the class of the byte at the cursor, the cursor past it (R160). -/
theorem streamNext_a85Byte {w : Work} {c : Byte} (hphase : w.phase = .a85) (hread : w.input[w.ip]? = some c) :
    streamNext w = runSymbol (decodeA85Char c) { w with ip := w.ip + 1 } := by
  simp only [streamNext, fetch, hphase, hread]

theorem streamNext_a85InputEnd {w : Work} (hphase : w.phase = .a85) (hread : w.input[w.ip]? = none) :
    streamNext w = a85EndOfData w := by
  simp only [streamNext, fetch, hphase, hread, runSymbol]

theorem streamNext_a85End {w : Work} (hphase : w.phase = .a85End) : streamNext w = a85EndOfData w := by
  simp only [streamNext, fetch, hphase, runSymbol]

theorem streamNext_rleInputEnd {w : Work} (hphase : w.phase = .rle) (hread : w.input[w.ip]? = none) :
    streamNext w = .done w := by
  simp only [streamNext, fetch, hphase, hread]

/-- The registers with the bit cursor past a code (R264). -/
def LzwRegs.skipCode (r : LzwRegs) : LzwRegs := { r with bp := r.bp + r.codeLength }

/-- One turn of an LZW stream runs the class of the code at the bit cursor, the cursor past it (R262, R264). -/
theorem streamNext_lzwCode {w : Work} (hphase : w.phase = .lzw)
    (hfits : w.lzw.bp + w.lzw.codeLength ≤ 8 * w.input.length) :
    streamNext w = runSymbol (decodeLzwCode w.lzw.tableSize w.lzw.prev.isSome (lzwCodeAt w))
      { w with lzw := w.lzw.skipCode } := by
  simp only [streamNext, fetch, hphase, if_pos hfits, LzwRegs.skipCode]

theorem streamNext_lzwInputEnd {w : Work} (hphase : w.phase = .lzw)
    (hshort : ¬ w.lzw.bp + w.lzw.codeLength ≤ 8 * w.input.length) : streamNext w = .done w := by
  simp only [streamNext, fetch, hphase, if_neg hshort]

/-- R139, R168: the end of a hex or Ascii85 stream ends the command. -/
theorem hexEndOfInput_ne_running {w w' : Work} : hexEndOfInput w ≠ .running w' := by
  unfold hexEndOfInput
  split <;> exact fun h => by cases h

theorem a85EndOfData_ne_running {w w' : Work} : a85EndOfData w ≠ .running w' := by
  unfold a85EndOfData
  dsimp only
  (repeat' split) <;> exact fun h => by cases h

/-- R134 to R138: a turn of a hex stream that goes on reads one byte. -/
theorem streamNext_running_hex {w w' : Work} (hphase : w.phase = .hex) (h : streamNext w = .running w') :
    w.ip < w.input.length ∧ ∃ hi out, w' = { w with ip := w.ip + 1, hi := hi, out := out } := by
  have hnibble {v : BitVec 4} (hv : hexNibble v { w with ip := w.ip + 1 } = .running w') :
      ∃ hi out, w' = { w with ip := w.ip + 1, hi := hi, out := out } := by
    unfold hexNibble at hv
    split at hv <;> cases hv <;> exact ⟨_, _, rfl⟩
  cases hread : w.input[w.ip]? with
  | none =>
    rw [streamNext_hexInputEnd hphase hread] at h
    exact absurd h hexEndOfInput_ne_running
  | some c =>
    refine ⟨(List.getElem?_eq_some_iff.mp hread).1, ?_⟩
    rw [streamNext_hexByte hphase hread, decodeHexChar] at h
    repeat' split at h
    · cases h; exact ⟨w.hi, w.out, rfl⟩
    · exact hnibble h
    · exact hnibble h
    · exact hnibble h
    · cases h

/-- The bounds of the open Ascii85 group (R29). -/
def Work.GroupInv (w : Work) : Prop := w.n ≤ 4 ∧ w.acc + 85 ^ (5 - w.n) ≤ 85 ^ 5

/-- R162 to R164: a symbol of an Ascii85 stream that goes on, other than the terminator, changes the output and
the open group, and keeps the group's bounds. -/
theorem a85Digit_running {c : Byte} {w w' : Work} (hc : c.toNat ≤ 0x75) (h : a85Digit c w = .running w') :
    (∃ acc n out, w' = { w with acc := acc, n := n, out := out }) ∧ (w.GroupInv → w'.GroupInv) := by
  unfold a85Digit at h
  dsimp only at h
  repeat' split at h
  · cases h
  · cases h
    exact ⟨⟨_, _, _, rfl⟩, fun _ => ⟨Nat.zero_le 4, by simp⟩⟩
  · cases h
    refine ⟨⟨_, _, w.out, rfl⟩, fun ⟨hn, hacc⟩ => ⟨by dsimp only; omega, ?_⟩⟩
    dsimp only
    have hweight : 85 ^ (5 - w.n) = 85 * 85 ^ (4 - w.n) := by
      rw [show 5 - w.n = (4 - w.n) + 1 by omega, Nat.pow_succ, Nat.mul_comm]
    have hdigit : (c.toNat - 0x21) * 85 ^ (4 - w.n) ≤ 84 * 85 ^ (4 - w.n) := Nat.mul_le_mul_right _ (by omega)
    rw [w85_eq _ hn, show 5 - (w.n + 1) = 4 - w.n by omega]
    omega

/-- R160 to R167: a turn of an Ascii85 stream that goes on reads one byte, or the two of the terminator. -/
theorem streamNext_running_a85 {w w' : Work} (hphase : w.phase = .a85) (h : streamNext w = .running w') :
    w.ip < w.input.length ∧ (w.GroupInv → w'.GroupInv) ∧
      ((∃ acc n out, w' = { w with ip := w.ip + 1, acc := acc, n := n, out := out }) ∨
        (w.ip + 1 < w.input.length ∧ w' = { w with phase := .a85End, ip := w.ip + 2 })) := by
  cases hread : w.input[w.ip]? with
  | none =>
    rw [streamNext_a85InputEnd hphase hread] at h
    exact absurd h a85EndOfData_ne_running
  | some c =>
    refine ⟨(List.getElem?_eq_some_iff.mp hread).1, ?_⟩
    rw [streamNext_a85Byte hphase hread, decodeA85Char] at h
    repeat' split at h
    · cases h
      exact ⟨id, .inl ⟨w.acc, w.n, w.out, rfl⟩⟩
    next hdigit =>
      obtain ⟨⟨acc, n, out, rfl⟩, hgroup⟩ := a85Digit_running hdigit.2 h
      exact ⟨hgroup, .inl ⟨acc, n, out, rfl⟩⟩
    · simp only [runSymbol, a85Z] at h
      split at h
      · cases h
      · cases h
        exact ⟨id, .inl ⟨w.acc, w.n, _, rfl⟩⟩
    · simp only [runSymbol, a85Terminator] at h
      split at h
      next hgt =>
        cases h
        exact ⟨id, .inr ⟨(List.getElem?_eq_some_iff.mp hgt).1, rfl⟩⟩
      · cases h
    · cases h

/-- R166, R168: after the terminator the stream ends. -/
theorem streamNext_not_running_a85End {w w' : Work} (hphase : w.phase = .a85End) :
    streamNext w ≠ .running w' := by
  rw [streamNext_a85End hphase]
  exact a85EndOfData_ne_running

/-- R242 to R248: a turn of an RLE stream that goes on reads a whole record, and outputs at most 64 bytes for each
byte it reads. -/
theorem streamNext_running_rle {w w' : Work} (hphase : w.phase = .rle) (h : streamNext w = .running w') :
    ∃ ip out, w' = { w with ip := ip, out := w.out ++ out } ∧ w.ip < ip ∧ ip ≤ w.input.length ∧
      out.length ≤ 64 * (ip - w.ip) := by
  cases hread : w.input[w.ip]? with
  | none =>
    rw [streamNext_rleInputEnd hphase hread] at h
    cases h
  | some c =>
    rw [streamNext_rleControl hphase hread, decodeRleControl] at h
    repeat' split at h
    · simp only [runSymbol, rleLiteral] at h
      split at h
      · cases h
      · cases h
        refine ⟨_, _, rfl, by omega, by omega, ?_⟩
        rw [List.length_take]
        omega
    · cases h
    next hliteral heod =>
      have hvalue : (c.extractLsb' 0 7).toNat = c.toNat % 128 := by
        simp only [BitVec.extractLsb'_toNat, Nat.shiftRight_zero]
      have hrun : 129 ≤ c.toNat := by
        have hne : c.toNat ≠ 128 := fun hc => heod (BitVec.eq_of_toNat_eq hc)
        omega
      have hc := c.isLt
      simp only [runSymbol, rleReplicate] at h
      split at h
      · cases h
      · rename_i b hb
        cases h
        have hlt := (List.getElem?_eq_some_iff.mp hb).1
        refine ⟨_, _, rfl, by omega, hlt, ?_⟩
        rw [List.length_replicate, hvalue]
        omega

end Sys2Proof.Machine

/-! ## What a turn of a decode loop that goes on can do: LZW (45_lzw.md R264 to R271) -/

namespace Sys2Proof.Machine

theorem LzwRegs.learn_of_none {r : LzwRegs} (h : r.prev = none) (char : Byte) (code : BitVec 12) :
    r.learn char code = { r with char := char, prev := some code } := by
  simp only [LzwRegs.learn, h]

theorem LzwRegs.learn_of_some {r : LzwRegs} {p : BitVec 12} (h : r.prev = some p) (char : Byte) (code : BitVec 12) :
    r.learn char code = { r with
      char := char
      prev := some code
      learned := r.learned ++ [r.entry p.toNat ++ [char]]
      codeLength := widened (r.tableSize + 1) r.codeLength } := by
  simp only [LzwRegs.learn, h]

theorem LzwRegs.tableSize_of_learned {r r' : LzwRegs} {x : Bytes} (h : r'.learned = r.learned ++ [x]) :
    r'.tableSize = r.tableSize + 1 := by
  simp only [LzwRegs.tableSize, h, List.length_append, List.length_singleton, Nat.add_assoc]

/-- Learning appends at most one entry. -/
theorem LzwRegs.learned_learn (r : LzwRegs) (char : Byte) (code : BitVec 12) :
    ∃ xs, (r.learn char code).learned = r.learned ++ xs := by
  cases hprev : r.prev with
  | none => exact ⟨[], by rw [LzwRegs.learn_of_none hprev, List.append_nil]⟩
  | some p => exact ⟨_, by rw [LzwRegs.learn_of_some hprev]⟩

theorem LzwRegs.tableSize_le_learn (r : LzwRegs) (char : Byte) (code : BitVec 12) :
    r.tableSize ≤ (r.learn char code).tableSize := by
  obtain ⟨xs, hxs⟩ := r.learned_learn char code
  simp only [LzwRegs.tableSize, hxs, List.length_append]
  omega

/-- Learning changes no entry that the table has. -/
theorem LzwRegs.entry_learn_of_lt {r : LzwRegs} {char : Byte} {code : BitVec 12} {c : Nat}
    (hc : c < r.tableSize) : (r.learn char code).entry c = r.entry c := by
  obtain ⟨xs, hxs⟩ := r.learned_learn char code
  rw [LzwRegs.tableSize] at hc
  simp only [LzwRegs.entry, hxs, List.getD_eq_getElem?_getD]
  repeat' split
  · rfl
  · rfl
  · rw [List.getElem?_append_left (by omega)]

/-- R271: the width grows exactly where the schedule has it grow. -/
theorem widened_lzwWidth (size : Nat) : widened (size + 1) (lzwWidth size) = lzwWidth (size + 1) := by
  unfold widened lzwWidth
  (repeat' split) <;> omega

/-- A data code that the table holds has an entry, not longer than its index allows. -/
theorem LzwRegs.Inv.entry_length {r : LzwRegs} (hinv : r.Inv) {c : Nat} (hc : c < r.tableSize) (hclear : c ≠ 256)
    (heod : c ≠ 257) : 1 ≤ (r.entry c).length ∧ (r.entry c).length ≤ r.learned.length + 1 := by
  unfold LzwRegs.tableSize at hc
  by_cases hbyte : c < 256
  · rw [LzwRegs.entry, if_pos hbyte, List.length_singleton]
    omega
  · have hentry := hinv.entries (c - 258) (by omega)
    rw [LzwRegs.entry_of_le (by omega)]
    omega

/-- R270, R271: learning keeps the invariants, when the code is a data code of the new table whose entry starts
with the character. -/
theorem LzwRegs.Inv.learn {r : LzwRegs} (hinv : r.Inv) {char : Byte} {code : BitVec 12}
    (hcode : code.toNat < (r.learn char code).tableSize) (hclear : code.toNat ≠ 256) (heod : code.toNat ≠ 257)
    (hhead : ((r.learn char code).entry code.toNat).head? = some char) : (r.learn char code).Inv := by
  cases hprev : r.prev with
  | none =>
    rw [LzwRegs.learn_of_none hprev] at hcode hhead ⊢
    exact ⟨hinv.width, hinv.entries, fun p hp => by cases hp; exact ⟨hcode, hclear, heod, hhead⟩⟩
  | some p =>
    obtain ⟨hlt, hpclear, hpeod, -⟩ := hinv.prev p hprev
    have hlen := hinv.entry_length hlt hpclear hpeod
    rw [LzwRegs.learn_of_some hprev] at hcode hhead ⊢
    refine ⟨?_, fun i hi => ?_, fun p hp => by cases hp; exact ⟨hcode, hclear, heod, hhead⟩⟩
    · exact (hinv.width ▸ widened_lzwWidth r.tableSize).trans
        (congrArg lzwWidth (LzwRegs.tableSize_of_learned (r := r) rfl).symm)
    · simp only [List.length_append, List.length_singleton] at hi
      simp only [List.getD_eq_getElem?_getD]
      by_cases hold : i < r.learned.length
      · rw [List.getElem?_append_left hold, ← List.getD_eq_getElem?_getD]
        exact hinv.entries i hold
      · obtain rfl : i = r.learned.length := by omega
        rw [List.getElem?_concat_length, Option.getD_some, List.length_append, List.length_singleton]
        omega

/-- R267: a code that the table holds keeps the invariants. -/
theorem LzwRegs.Inv.learn_known {r : LzwRegs} (hinv : r.Inv) {code : BitVec 12} (hcode : code.toNat < r.tableSize)
    (hclear : code.toNat ≠ 256) (heod : code.toNat ≠ 257) :
    (r.learn ((r.entry code.toNat).headD 0) code).Inv := by
  refine hinv.learn ?_ hclear heod ?_
  · exact Nat.lt_of_lt_of_le hcode (r.tableSize_le_learn _ _)
  · rw [LzwRegs.entry_learn_of_lt hcode]
    obtain ⟨hpos, -⟩ := hinv.entry_length hcode hclear heod
    cases hentry : r.entry code.toNat with
    | nil => rw [hentry] at hpos; exact absurd hpos (Nat.not_succ_le_zero 0)
    | cons b bs => rfl

/-- R269: the next code to be assigned keeps the invariants. -/
theorem LzwRegs.Inv.learn_next {r : LzwRegs} (hinv : r.Inv) {code p : BitVec 12} (hprev : r.prev = some p)
    (hcode : code.toNat = r.tableSize) :
    (r.learn ((r.entry p.toNat ++ [r.char]).headD 0) code).Inv := by
  have hsize : 258 ≤ r.tableSize := Nat.le_add_right 258 _
  refine hinv.learn ?_ (by omega) (by omega) ?_
  · rw [LzwRegs.learn_of_some hprev, LzwRegs.tableSize_of_learned (r := r) rfl]
    exact Nat.lt_succ_of_le (Nat.le_of_eq hcode)
  · rw [hcode, LzwRegs.learn_of_some hprev, LzwRegs.entry_tableSize_of_learned (r := r) rfl]
    cases r.entry p.toNat <;> rfl

/-- Where the cursor stands does not matter to what is learned. -/
theorem LzwRegs.learn_skipCode (r : LzwRegs) (char : Byte) (code : BitVec 12) :
    r.skipCode.learn char code = { r.learn char code with bp := r.bp + r.codeLength } := by
  cases hprev : r.prev with
  | none => rw [LzwRegs.learn_of_none hprev, LzwRegs.learn_of_none (r := r.skipCode) hprev]; rfl
  | some p => rw [LzwRegs.learn_of_some hprev, LzwRegs.learn_of_some (r := r.skipCode) hprev]; rfl

/-- What a turn of LZW that goes on makes of the registers (R264 to R271): the cursor moves past the code, the
width is at least what it was or starts again at 9, and the invariants are kept. -/
structure LzwRegs.Turn (r r' : LzwRegs) : Prop where
  bp : r'.bp = r.bp + r.codeLength
  width : 9 ≤ r.codeLength → 9 ≤ r'.codeLength
  inv : r.Inv → r'.Inv

theorem LzwRegs.Turn.learn {r : LzwRegs} {char : Byte} {code : BitVec 12}
    (hinv : r.Inv → (r.learn char code).Inv) :
    LzwRegs.Turn r (r.skipCode.learn char code) := by
  have hmono : r.codeLength ≤ (r.learn char code).codeLength := by
    cases hprev : r.prev with
    | none => exact Nat.le_of_eq (by rw [LzwRegs.learn_of_none hprev])
    | some p =>
      rw [LzwRegs.learn_of_some hprev]
      dsimp only [widened]
      split <;> omega
  rw [LzwRegs.learn_skipCode]
  refine ⟨rfl, fun h => Nat.le_trans h hmono, fun h => ?_⟩
  obtain ⟨hwidth, hentries, hprev⟩ := hinv h
  exact ⟨hwidth, hentries, hprev⟩

/-- R262 to R271: a turn of LZW that goes on reads one code, which is in the data. -/
theorem streamNext_running_lzw {w w' : Work} (hphase : w.phase = .lzw) (h : streamNext w = .running w') :
    w.lzw.bp + w.lzw.codeLength ≤ 8 * w.input.length ∧ w.lzw.Turn w'.lzw ∧
      ∃ out, w' = { w with out := out, lzw := w'.lzw } := by
  by_cases hfits : w.lzw.bp + w.lzw.codeLength ≤ 8 * w.input.length
  · refine ⟨hfits, ?_⟩
    rw [streamNext_lzwCode hphase hfits, decodeLzwCode] at h
    repeat' split at h
    · cases h
      exact ⟨⟨rfl, fun _ => Nat.le_refl 9, fun _ => lzwRegs_inv_of_fresh rfl rfl rfl⟩, w.out, rfl⟩
    · cases h
    next hclear heod hknown =>
      have hemit : runSymbol (.lzwKnown (lzwCodeAt w)) { w with lzw := w.lzw.skipCode } =
          emitAndLearn (w.lzw.entry (lzwCodeAt w).toNat) (lzwCodeAt w) { w with lzw := w.lzw.skipCode } :=
        if_pos hknown
      cases hemit.symm.trans h
      exact ⟨.learn fun hinv => hinv.learn_known hknown hclear heod, _, rfl⟩
    next hnext =>
      obtain ⟨p, hp⟩ := Option.isSome_iff_exists.mp hnext.2
      have hemit : runSymbol (.lzwNotYetDefined (lzwCodeAt w)) { w with lzw := w.lzw.skipCode } =
          emitAndLearn (w.lzw.entry p.toNat ++ [w.lzw.char]) (lzwCodeAt w) { w with lzw := w.lzw.skipCode } := by
        simp only [runSymbol, lzwNotYetDefined, LzwRegs.skipCode, hp]
        exact if_pos hnext.1
      cases hemit.symm.trans h
      exact ⟨.learn fun hinv => hinv.learn_next hp hnext.1, _, rfl⟩
    · cases h
  · rw [streamNext_lzwInputEnd hphase hfits] at h
    cases h

end Sys2Proof.Machine

/-! ## What a turn of a decode loop that goes on can do: inflate (47_zlib_deflate_reference.md R291 to R310) -/

namespace Sys2Proof.Machine

/-- The end of the DEFLATE data, as a bit cursor (R292). -/
def Work.bitEnd (w : Work) : Nat := 8 * (w.input.length - 2)

/-- The phases after the zlib header and before predictor reversal. -/
def Phase.inDeflate : Phase → Bool
  | .blockHeader | .codeLengths | .data | .distance | .trailer => true
  | .idle | .hex | .a85 | .a85End | .rle | .lzw | .zlibHeader | .predictor | .png => false

/-- What reading on in the DEFLATE data makes of the registers, in a running decode: the bit cursor moves on inside
the data, and nothing but the phase and the inflate registers changes. -/
structure Work.ReadsOn (w w' : Work) : Prop where
  frame : ∃ phase inf, w' = { w with phase := phase, inf := inf }
  phase : w'.phase.inDeflate = true
  cursor : w.inf.bitPos ≤ w'.inf.bitPos
  bound : w.inf.bitPos ≤ w.bitEnd → w'.inf.bitPos ≤ w.bitEnd
  inv : w'.InflateInv

theorem inflateInv_of_phase {w : Work} (hcounts : w.phase ≠ .codeLengths) (hcopy : w.phase ≠ .distance) :
    w.InflateInv :=
  ⟨fun h => absurd h hcounts, fun h => absurd h hcopy⟩

theorem Work.skipBits_le_bitEnd {w : Work} {n v : Nat} (h : readLsb w.input w.inf.bitPos n = some v)
    (hbound : w.inf.bitPos ≤ w.bitEnd) : w.inf.bitPos + n ≤ w.bitEnd := by
  by_cases hn : n = 0
  · rw [hn]; exact hbound
  · exact le_of_readLsb h hn

theorem readFields_eq_some {n : Nat} : ∀ {k : Nat} {w w' : Work} {vals : List Nat},
    readFields w n k = some (vals, w') → w' = w.skipBits (n * k) ∧ (w.inf.bitPos ≤ w.bitEnd → w'.inf.bitPos ≤ w.bitEnd)
  | 0, w, w', vals, h => by cases h; exact ⟨rfl, id⟩
  | k + 1, w, w', vals, h => by
    cases hread : readLsb w.input w.inf.bitPos n with
    | none => simp only [readFields, readField_of_none hread] at h; cases h
    | some v =>
      simp only [readFields, readField_of_some hread] at h
      split at h
      · cases h
      · rename_i vs w'' hrest
        cases h
        obtain ⟨hframe, hbound⟩ := readFields_eq_some hrest
        refine ⟨?_, fun hle => hbound (Work.skipBits_le_bitEnd hread hle)⟩
        rw [hframe, Work.skipBits_skipBits, Nat.mul_succ, Nat.add_comm]

theorem afterBlock_phase (w : Work) : (afterBlock w).phase = .trailer ∨ (afterBlock w).phase = .blockHeader := by
  unfold afterBlock
  cases w.inf.bfinal
  · exact .inr rfl
  · exact .inl rfl

/-- R293: a block is followed by the trailer or by a block header. -/
theorem Work.ReadsOn.afterBlock {w : Work} {inf : InflateRegs} (hcursor : w.inf.bitPos ≤ inf.bitPos)
    (hbound : w.inf.bitPos ≤ w.bitEnd → inf.bitPos ≤ w.bitEnd) : w.ReadsOn (afterBlock { w with inf := inf }) := by
  refine ⟨⟨_, inf, rfl⟩, ?_, hcursor, hbound, ?_⟩
  · obtain h | h := afterBlock_phase { w with inf := inf } <;> rw [h] <;> rfl
  · obtain h | h := afterBlock_phase { w with inf := inf } <;>
      exact inflateInv_of_phase (by rw [h]; decide) (by rw [h]; decide)

theorem deflateBlockStored_readsOn {final : Bool} {w w' : Work} (h : deflateBlockStored final w = .running w') :
    w.ReadsOn w' := by
  obtain ⟨q, hq⟩ : ∃ q, q = (w.inf.bitPos + 7) / 8 := ⟨_, rfl⟩
  have halign : alignUp w.inf.bitPos = 8 * q := by rw [alignUp_eq, hq]
  cases hlen : readLsb w.input (8 * q) 16 with
  | none => simp only [deflateBlockStored, readField, halign, hlen] at h; cases h
  | some len =>
    cases hnlen : readLsb w.input (8 * q + 16) 16 with
    | none => simp only [deflateBlockStored, readField, halign, hlen, hnlen] at h; cases h
    | some nlen =>
      rw [deflateBlockStored_of_lengths final hq hlen hnlen] at h
      by_cases hcomplement : nlen ≠ len ^^^ 0xFFFF
      · rw [if_pos hcomplement] at h; cases h
      rw [if_neg hcomplement] at h
      by_cases hshort : w.input.length < 2 + (q + 4) + len
      · rw [if_pos hshort] at h; cases h
      rw [if_neg hshort] at h
      cases h
      refine ⟨⟨_, _, rfl⟩, by cases final <;> rfl, ?_, fun _ => ?_, ?_⟩
      · dsimp only; omega
      · dsimp only [Work.bitEnd]; omega
      · exact inflateInv_of_phase (by cases final <;> simp) (by cases final <;> simp)

theorem deflateBlockFixed_readsOn {final : Bool} {w w' : Work} (h : deflateBlockFixed final w = .running w') :
    w.ReadsOn w' := by
  cases h
  exact ⟨⟨_, _, rfl⟩, rfl, Nat.le_refl _, id, inflateInv_of_phase (by simp) (by simp)⟩

theorem deflateBlockDynamic_readsOn {final : Bool} {w w' : Work} (h : deflateBlockDynamic final w = .running w') :
    w.ReadsOn w' := by
  cases hlit_read : readLsb w.input w.inf.bitPos 5 with
  | none => rw [deflateBlockDynamic_of_cut final (.inl hlit_read)] at h; cases h
  | some hlit =>
    cases hdist_read : readLsb w.input (w.inf.bitPos + 5) 5 with
    | none => rw [deflateBlockDynamic_of_cut final (.inr (.inl hdist_read))] at h; cases h
    | some hdist =>
      cases hclen_read : readLsb w.input (w.inf.bitPos + 10) 4 with
      | none => rw [deflateBlockDynamic_of_cut final (.inr (.inr hclen_read))] at h; cases h
      | some hclen =>
        rw [deflateBlockDynamic_of_counts final hlit_read hdist_read hclen_read] at h
        split at h
        · cases h
        cases hfields : readFields (w.skipBits 14) 3 (hclen + 4) with
        | none => rw [hfields] at h; cases h
        | some r =>
          obtain ⟨vals, w4⟩ := r
          rw [hfields, Option.elim_some] at h
          split at h
          · cases h
            obtain ⟨rfl, hbound⟩ := readFields_eq_some hfields
            have hcounts : w.inf.bitPos + 10 + 4 ≤ w.bitEnd := le_of_readLsb hclen_read (by omega)
            refine ⟨⟨_, _, rfl⟩, rfl, ?_, fun _ => hbound hcounts, ⟨fun _ => ?_, fun hphase => by cases hphase⟩⟩
            · dsimp only [Work.skipBits]; omega
            · dsimp only [List.length_nil]; omega
          · cases h

/-- R300: lengths that are pushed leave the block in its code lengths, some of them missing, or start its data. -/
theorem pushLens_readsOn {xs : List Nat} {w w' : Work} (hphase : w.phase = .codeLengths)
    (hcounts : 257 ≤ w.inf.nLit ∧ w.inf.nLit ≤ 286 ∧ 1 ≤ w.inf.nDist ∧ w.inf.nDist ≤ 30)
    (h : pushLens xs w = .running w') : w.ReadsOn w' := by
  simp only [pushLens, finishLens] at h
  repeat' split at h
  · cases h
  · cases h
  · cases h
    exact ⟨⟨_, _, rfl⟩, rfl, Nat.le_refl _, id, inflateInv_of_phase (by simp) (by simp)⟩
  · cases h
  · cases h
    refine ⟨⟨_, _, rfl⟩, by dsimp only; rw [hphase]; rfl, Nat.le_refl _, id,
      ⟨fun _ => ?_, fun hdist => by cases hphase.symm.trans hdist⟩⟩
    dsimp only
    omega

theorem Work.ReadsOn.of_skipBits {w w' : Work} {n v : Nat} (hread : readLsb w.input w.inf.bitPos n = some v)
    (h : (w.skipBits n).ReadsOn w') : w.ReadsOn w' := by
  obtain ⟨⟨phase, inf, hframe⟩, hphase, hcursor, hbound, hinv⟩ := h
  refine ⟨⟨phase, inf, hframe⟩, hphase, ?_, fun hle => hbound (Work.skipBits_le_bitEnd hread hle), hinv⟩
  exact Nat.le_trans (Nat.le_add_right _ n) hcursor

theorem deflateSymLength_readsOn {sym : BitVec 9} {w w' : Work} (hlow : 257 ≤ sym.toNat) (hhigh : sym.toNat ≤ 285)
    (h : deflateSymLength sym w = .running w') : w.ReadsOn w' := by
  obtain ⟨k, hk⟩ : ∃ k, sym.toNat - 257 = k := ⟨_, rfl⟩
  have hle : k ≤ 28 := by omega
  cases hread : readLsb w.input w.inf.bitPos (lengthExtraOf k) with
  | none => rw [deflateSymLength_of_none hk hle hread] at h; cases h
  | some x =>
    rw [deflateSymLength_of_some hk hle hread] at h
    cases h
    have hbase : ∀ k : Nat, k ≤ 28 → 3 ≤ lengthBaseOf k ∧ lengthBaseOf k + 2 ^ lengthExtraOf k ≤ 259 := by decide
    have hlt := readLsb_lt hread
    have hlen := hbase k hle
    refine ⟨⟨_, _, rfl⟩, rfl, Nat.le_add_right _ _, Work.skipBits_le_bitEnd hread,
      ⟨fun hphase => (by cases hphase), fun _ => ?_⟩⟩
    dsimp only
    omega

theorem deflateSymDistance_readsOn {sym : BitVec 5} {w w' : Work} (h : deflateSymDistance sym w = .running w') :
    w.ReadsOn w' := by
  cases hread : readLsb w.input w.inf.bitPos (distExtra.getD sym.toNat 0) with
  | none => rw [deflateSymDistance, readField_of_none hread] at h; cases h
  | some x =>
    rw [deflateSymDistance, readField_of_some hread] at h
    dsimp only at h
    split at h
    · cases h
    cases h
    exact ⟨⟨_, _, rfl⟩, rfl, Nat.le_add_right _ _, Work.skipBits_le_bitEnd hread,
      inflateInv_of_phase (by simp) (by simp)⟩

/-- R296: a symbol that has been read has at least one bit, and its bits are in the data. -/
theorem bounds_of_readSymbolFrom {bs : Bytes} {code : HuffCode} : ∀ {fuel k l c sym next : Nat},
    readSymbolFrom bs code fuel k l c = some (sym, next) → k < next ∧ next ≤ 8 * (bs.length - 2)
  | 0, _, _, _, _, _, h => by cases h
  | fuel + 1, k, l, c, sym, next, h => by
    unfold readSymbolFrom at h
    split at h
    · cases h
    · rename_i b hb
      have hk := lsbBit_isSome_iff.mp (Option.isSome_of_mem hb)
      dsimp only at h
      split at h
      · cases h; omega
      · obtain ⟨hlt, hle⟩ := bounds_of_readSymbolFrom h
        omega

/-- The registers with the bit cursor at `k`. -/
def Work.atBit (w : Work) (k : Nat) : Work := { w with inf := { w.inf with bitPos := k } }

/-- R296, R302: a turn on a Huffman code runs the symbol that is read, the bit cursor past its code, or raises. -/
theorem streamNext_fetchedSymbol {w : Work} {decodeSym : Nat → Option Instr} {code : HuffCode}
    (hfetch : fetch w = fetchedSymbol w decodeSym (readSymbol w.input code w.inf.bitPos)) :
    streamNext w = .raised .decompressionError ∨
      ∃ sym next i, readSymbol w.input code w.inf.bitPos = some (sym, next) ∧ decodeSym sym = some i ∧
        streamNext w = runSymbol i (w.atBit next) := by
  cases hread : readSymbol w.input code w.inf.bitPos with
  | none => exact .inl (by simp only [streamNext, hfetch, hread, fetchedSymbol])
  | some r =>
    obtain ⟨sym, next⟩ := r
    cases hsym : decodeSym sym with
    | none => exact .inl (by simp only [streamNext, hfetch, hread, fetchedSymbol, hsym])
    | some i =>
      exact .inr ⟨sym, next, i, rfl, hsym, by simp only [streamNext, hfetch, hread, fetchedSymbol, hsym, Work.atBit]⟩

/-- A turn of inflate after the header that goes on: it reads on, and at least one bit. -/
structure Work.DeflateTurn (w w' : Work) : Prop extends w.ReadsOn w' where
  lt : w.inf.bitPos < w'.inf.bitPos
  le : w'.inf.bitPos ≤ w.bitEnd

theorem Work.DeflateTurn.of_atBit {w w' : Work} {next : Nat} (hlt : w.inf.bitPos < next) (hle : next ≤ w.bitEnd)
    (h : (w.atBit next).ReadsOn w') : w.DeflateTurn w' := by
  obtain ⟨⟨phase, inf, hframe⟩, hphase, hcursor, hbound, hinv⟩ := h
  have hnext : w.inf.bitPos < w'.inf.bitPos := Nat.lt_of_lt_of_le hlt hcursor
  exact ⟨⟨⟨phase, inf, hframe⟩, hphase, Nat.le_of_lt hnext, fun _ => hbound hle, hinv⟩, hnext, hbound hle⟩

/-- R293: a turn on a block header. -/
theorem streamNext_blockHeader {w : Work} {v : Nat} (hphase : w.phase = .blockHeader)
    (hread : readLsb w.input w.inf.bitPos 3 = some v) :
    streamNext w = runSymbol (decodeBlockHeader (v % 2 == 1) (v / 2)) (w.atBit (w.inf.bitPos + 3)) := by
  simp only [streamNext, fetch, hphase, readField_of_some hread, Work.skipBits, Work.atBit]

theorem streamNext_blockHeader_cut {w : Work} (hphase : w.phase = .blockHeader)
    (hread : readLsb w.input w.inf.bitPos 3 = none) : streamNext w = .raised .decompressionError := by
  simp only [streamNext, fetch, hphase, readField_of_none hread]

theorem streamNext_running_blockHeader {w w' : Work} (hphase : w.phase = .blockHeader)
    (h : streamNext w = .running w') : w.DeflateTurn w' := by
  cases hread : readLsb w.input w.inf.bitPos 3 with
  | none => rw [streamNext_blockHeader_cut hphase hread] at h; cases h
  | some v =>
    rw [streamNext_blockHeader hphase hread] at h
    refine .of_atBit (by omega) (le_of_readLsb hread (by omega)) ?_
    unfold decodeBlockHeader at h
    split at h
    · exact deflateBlockStored_readsOn h
    · exact deflateBlockFixed_readsOn h
    · exact deflateBlockDynamic_readsOn h
    · cases h

/-- R300: a turn on a code-length symbol. -/
theorem streamNext_running_codeLengths {w w' : Work} (hphase : w.phase = .codeLengths) (hinv : w.InflateInv)
    (h : streamNext w = .running w') : w.DeflateTurn w' := by
  obtain ⟨-, hcounts⟩ := hinv.counts hphase
  obtain hraised | ⟨sym, next, i, hread, hsym, hturn⟩ := streamNext_fetchedSymbol (w := w)
    (decodeSym := decodeCodelen) (code := w.inf.clCode) (by simp only [fetch, hphase])
  · rw [hraised] at h; cases h
  · obtain ⟨hlt, hle⟩ := bounds_of_readSymbolFrom hread
    refine .of_atBit hlt hle ?_
    rw [hturn] at h
    have hpush {n v : Nat} {xs : List Nat} (hv : readLsb w.input next n = some v)
        (hrun : pushLens xs ((w.atBit next).skipBits n) = .running w') : (w.atBit next).ReadsOn w' :=
      .of_skipBits hv (pushLens_readsOn hphase hcounts hrun)
    unfold decodeCodelen at hsym
    split at hsym
    · cases hsym
      exact pushLens_readsOn hphase hcounts h
    · split at hsym
      · cases hsym
        rw [runSymbol, deflateCodelen16] at h
        split at h
        · cases h
        · cases hv : readLsb w.input next 2 with
          | none => rw [readField_of_none hv] at h; cases h
          | some v => rw [readField_of_some hv] at h; exact hpush hv h
      · cases hsym
        rw [runSymbol, deflateCodelen17] at h
        cases hv : readLsb w.input next 3 with
        | none => rw [readField_of_none hv] at h; cases h
        | some v => rw [readField_of_some hv] at h; exact hpush hv h
      · cases hsym
        rw [runSymbol, deflateCodelen18] at h
        cases hv : readLsb w.input next 7 with
        | none => rw [readField_of_none hv] at h; cases h
        | some v => rw [readField_of_some hv] at h; exact hpush hv h
      · cases hsym

/-- R302 to R307: a turn on a literal/length symbol. -/
theorem streamNext_running_data {w w' : Work} (hphase : w.phase = .data) (h : streamNext w = .running w') :
    w.DeflateTurn w' := by
  obtain hraised | ⟨sym, next, i, hread, hsym, hturn⟩ := streamNext_fetchedSymbol (w := w)
    (decodeSym := decodeLitLen) (code := w.inf.litCode) (by simp only [fetch, hphase])
  · rw [hraised] at h; cases h
  · obtain ⟨hlt, hle⟩ := bounds_of_readSymbolFrom hread
    refine .of_atBit hlt hle ?_
    rw [hturn] at h
    unfold decodeLitLen at hsym
    repeat' split at hsym
    all_goals cases hsym
    · cases h
      refine ⟨⟨_, _, rfl⟩, by simp only [Work.atBit, hphase]; rfl, Nat.le_refl _, id, ?_⟩
      exact inflateInv_of_phase (by simp [Work.atBit, hphase]) (by simp [Work.atBit, hphase])
    · cases h
      exact Work.ReadsOn.afterBlock (w := w.atBit next) (Nat.le_refl _) id
    · have hvalue : (BitVec.ofNat 9 sym).toNat = sym := by rw [BitVec.toNat_ofNat, Nat.mod_eq_of_lt (by omega)]
      rw [runSymbol] at h
      have hlow : 257 ≤ sym := by omega
      exact deflateSymLength_readsOn (by omega) (by omega) h
    · cases h

/-- R302, R306, R309: a turn on a distance symbol. -/
theorem streamNext_running_distance {w w' : Work} (hphase : w.phase = .distance) (h : streamNext w = .running w') :
    w.DeflateTurn w' := by
  obtain hraised | ⟨sym, next, i, hread, hsym, hturn⟩ := streamNext_fetchedSymbol (w := w)
    (decodeSym := decodeDistance) (code := w.inf.distCode) (by simp only [fetch, hphase])
  · rw [hraised] at h; cases h
  · obtain ⟨hlt, hle⟩ := bounds_of_readSymbolFrom hread
    refine .of_atBit hlt hle ?_
    rw [hturn] at h
    unfold decodeDistance at hsym
    repeat' split at hsym
    all_goals cases hsym
    · exact deflateSymDistance_readsOn h
    · cases h

/-- R291: a turn on the zlib header. -/
theorem streamNext_zlibHeader {w : Work} {cmf flg : Byte} (hphase : w.phase = .zlibHeader)
    (hcmf : w.input[0]? = some cmf) (hflg : w.input[1]? = some flg) :
    streamNext w = zlibHeader cmf flg w := by
  simp only [streamNext, fetch, hphase, hcmf, hflg, runSymbol]

theorem streamNext_zlibHeader_cut {w : Work} (hphase : w.phase = .zlibHeader)
    (hcut : w.input[0]? = none ∨ w.input[1]? = none) : streamNext w = .raised .decompressionError := by
  obtain h | h := hcut
  · simp only [streamNext, fetch, hphase, h]
  · cases h0 : w.input[0]? <;> simp only [streamNext, fetch, hphase, h, h0]

theorem streamNext_running_zlibHeader {w w' : Work} (hphase : w.phase = .zlibHeader)
    (h : streamNext w = .running w') : w' = { w with phase := .blockHeader, inf := .start } := by
  cases hcmf : w.input[0]? with
  | none => rw [streamNext_zlibHeader_cut hphase (.inl hcmf)] at h; cases h
  | some cmf =>
    cases hflg : w.input[1]? with
    | none => rw [streamNext_zlibHeader_cut hphase (.inr hflg)] at h; cases h
    | some flg =>
      rw [streamNext_zlibHeader hphase hcmf hflg] at h
      unfold zlibHeader at h
      split at h
      · cases h; rfl
      · cases h

/-- The bit cursor past the checksum of the trailer (R310). -/
def Work.trailerEnd (w : Work) : Nat := alignUp w.inf.bitPos + 32

/-- The registers when the trailer has been read: `ip` past the whole zlib stream (R290). -/
def Work.pastTrailer (w : Work) : Work :=
  { w with inf := { w.inf with bitPos := w.trailerEnd }, ip := 2 + w.trailerEnd / 8 }

/-- R310: a turn on a trailer of four bytes. -/
theorem streamNext_trailerBytes {w : Work} {b0 b1 b2 b3 : Byte} (hphase : w.phase = .trailer)
    (hread : (w.input.drop (2 + alignUp w.inf.bitPos / 8)).take 4 = [b0, b1, b2, b3]) :
    streamNext w = if b0 ++ b1 ++ b2 ++ b3 = adler32 w.inf.infl then
        w.params.elim (.done { w.pastTrailer with out := w.inf.infl })
          fun q => .running (loadParams q { w.pastTrailer with phase := .predictor })
      else .raised .decompressionError := by
  simp only [streamNext, fetch, hphase, hread, decodeTrailer, runSymbol, zlibTrailer, inflateError, Work.pastTrailer,
    Work.trailerEnd]
  split
  · cases w.params <;> rfl
  · rfl

theorem streamNext_trailer_cut {w : Work} (hphase : w.phase = .trailer)
    (hcut : ((w.input.drop (2 + alignUp w.inf.bitPos / 8)).take 4).length ≠ 4) :
    streamNext w = .raised .decompressionError := by
  simp only [streamNext, fetch, hphase]
  split
  · rename_i h
    split at h
    · rename_i hread
      rw [hread] at hcut
      exact absurd rfl hcut
    · cases h
  · rename_i h
    split at h <;> cases h
  · rename_i h
    split at h
    · cases h
    · cases h; rfl

theorem exists_four_of_length {l : Bytes} (h : l.length = 4) : ∃ b0 b1 b2 b3, l = [b0, b1, b2, b3] := by
  match l, h with
  | [b0, b1, b2, b3], _ => exact ⟨b0, b1, b2, b3, rfl⟩

/-- R193, R310: a turn on the trailer goes on only with parameters, to predictor reversal. -/
theorem streamNext_running_trailer {w w' : Work} (hphase : w.phase = .trailer) (h : streamNext w = .running w') :
    ∃ q, w.params = some q ∧ w' = loadParams q { w.pastTrailer with phase := .predictor } := by
  by_cases hlen : ((w.input.drop (2 + alignUp w.inf.bitPos / 8)).take 4).length = 4
  · obtain ⟨b0, b1, b2, b3, hread⟩ := exists_four_of_length hlen
    rw [streamNext_trailerBytes hphase hread] at h
    split at h
    · cases hparams : w.params with
      | none => rw [hparams] at h; cases h
      | some q => rw [hparams] at h; cases h; exact ⟨q, rfl, rfl⟩
    · cases h
  · rw [streamNext_trailer_cut hphase hlen] at h
    cases h

/-- R210, R213: a turn on the Predictor value that goes on starts the rows, with a legal row width. -/
theorem streamNext_running_predictor {w w' : Work} (hphase : w.phase = .predictor)
    (h : streamNext w = .running w') :
    1 ≤ w.pred.columns ∧ 1 ≤ w.pred.bpc ∧ w' = { w with
      phase := .png, out := [], ip := 0,
      pred := { w.pred with rowBytes := rowWidth w.pred.columns w.pred.bpc, prev := [] } } := by
  rw [streamNext_predictor hphase, decodePredictor] at h
  repeat' split at h
  · cases h
  · cases h
  · cases h
  · simp only [runSymbol, predictorPng] at h
    split at h
    · cases h
    · cases h
      exact ⟨by omega, by omega, rfl⟩

/-- R216: a turn of predictor reversal runs the tag at the cursor. -/
theorem streamNext_pngTag {w : Work} {t : Byte} (hphase : w.phase = .png) (hread : w.inf.infl[w.ip]? = some t)
    (hlegal : t.toNat ≤ 4) : streamNext w = pngRow t (filterOfTag t.toNat) { w with ip := w.ip + 1 } := by
  have hrun : ∀ v : Byte, v.toNat ≤ 4 → (decodePngTag v, v) ∈
      [(.pngTagNone, 0), (.pngTagSub, 1), (.pngTagUp, 2), (.pngTagAverage, 3), (.pngTagPaeth, (4 : Byte))] := by
    decide
  simp only [streamNext, fetch, hphase, hread]
  have hmem := hrun t hlegal
  simp only [List.mem_cons, Prod.mk.injEq, List.not_mem_nil, or_false] at hmem
  obtain ⟨hi, rfl⟩ | ⟨hi, rfl⟩ | ⟨hi, rfl⟩ | ⟨hi, rfl⟩ | ⟨hi, rfl⟩ := hmem <;> rw [hi] <;> rfl

theorem streamNext_pngTag_illegal {w : Work} {t : Byte} (hphase : w.phase = .png)
    (hread : w.inf.infl[w.ip]? = some t) (hillegal : ¬ t.toNat ≤ 4) :
    streamNext w = .raised .invalidPredictor := by
  have hdecode : ∀ v : Byte, ¬ v.toNat ≤ 4 → decodePngTag v = .pngTagIllegal v := by decide
  simp only [streamNext, fetch, hphase, hread, hdecode t hillegal, runSymbol, pngTagIllegal]

theorem streamNext_pngEnd {w : Work} (hphase : w.phase = .png) (hread : w.inf.infl[w.ip]? = none) :
    streamNext w = .done w := by
  simp only [streamNext, fetch, hphase, hread]

/-- R216 to R221: a turn of predictor reversal that goes on is a row of a legal tag. -/
theorem streamNext_running_png {w w' : Work} (hphase : w.phase = .png) (h : streamNext w = .running w') :
    ∃ t, w.inf.infl[w.ip]? = some t ∧ t.toNat ≤ 4 ∧
      pngRow t (filterOfTag t.toNat) { w with ip := w.ip + 1 } = .running w' := by
  cases hread : w.inf.infl[w.ip]? with
  | none => rw [streamNext_pngEnd hphase hread] at h; cases h
  | some t =>
    by_cases hlegal : t.toNat ≤ 4
    · exact ⟨t, rfl, hlegal, streamNext_pngTag hphase hread hlegal ▸ h⟩
    · rw [streamNext_pngTag_illegal hphase hread hlegal] at h
      cases h

end Sys2Proof.Machine

/-! ## Every decode loop ends within its budget (70_reset_and_hazards.md R400) -/

namespace Sys2Proof.Machine

/-- The phases of inflate, from the zlib header to its trailer. -/
def Phase.inInflate (p : Phase) : Bool := p == .zlibHeader || p.inDeflate

/-- A bound on the turns that a decode loop still makes: each reads a byte, a code of at least nine bits or a bit,
and the last one ends. Inflate with `PARAMS` is not bounded by it across its trailer. -/
def Work.turnsLeft (w : Work) : Nat :=
  match w.phase with
  | .idle | .a85End => 1
  | .hex | .a85 | .rle => w.input.length - w.ip + 1
  | .lzw => (8 * w.input.length - w.lzw.bp) / 9 + 1
  | .zlibHeader => w.bitEnd + 2
  | .blockHeader | .codeLengths | .data | .distance | .trailer => w.bitEnd - w.inf.bitPos + 1
  | .predictor => w.inf.infl.length + 2
  | .png => w.inf.infl.length - w.ip + 1

theorem Work.turnsLeft_pos (w : Work) : 0 < w.turnsLeft := by
  unfold Work.turnsLeft
  split <;> omega

theorem Work.turnsLeft_of_inDeflate {w : Work} (h : w.phase.inDeflate = true) :
    w.turnsLeft = w.bitEnd - w.inf.bitPos + 1 := by
  unfold Work.turnsLeft
  split <;> simp_all [Phase.inDeflate]

/-- An LZW decode reads at least nine bits a turn (R262). -/
def Work.WideCodes (w : Work) : Prop := w.phase = .lzw → 9 ≤ w.lzw.codeLength

/-- What a turn that goes on keeps, and that it brings the loop nearer to its end. -/
structure Work.GoesOn (w w' : Work) : Prop where
  busy : w'.phase ≠ .idle
  wide : w.WideCodes → w'.WideCodes
  stream : w'.phase.inInflate = w.phase.inInflate
  params : w'.params = w.params
  lt : w.WideCodes → w'.turnsLeft < w.turnsLeft

theorem Work.DeflateTurn.goesOn {w w' : Work} (hphase : w.phase.inDeflate = true) (h : w.DeflateTurn w') :
    w.GoesOn w' := by
  obtain ⟨⟨⟨phase, inf, rfl⟩, hphase', -, -, -⟩, hlt, hle⟩ := h
  refine ⟨fun hidle => ?_, fun _ hlzw => ?_, ?_, rfl, fun _ => ?_⟩
  · rw [hidle] at hphase'; cases hphase'
  · rw [hlzw] at hphase'; cases hphase'
  · simp only [Phase.inInflate, hphase, hphase', Bool.or_true]
  · rw [Work.turnsLeft_of_inDeflate hphase, Work.turnsLeft_of_inDeflate hphase']
    dsimp only [Work.bitEnd] at hlt hle ⊢
    omega

/-- R216, R222: a row reads its tag, and leaves the cursor in the inflated bytes. -/
theorem pngRow_goesOn {w w' : Work} {t : Byte} {f : RowFilter} (hphase : w.phase = .png)
    (hread : w.inf.infl[w.ip]? = some t) (h : pngRow t f { w with ip := w.ip + 1 } = .running w') : w.GoesOn w' := by
  have hlt : w.ip < w.inf.infl.length := (List.getElem?_eq_some_iff.mp hread).1
  cases h
  refine ⟨by simp [hphase], fun _ hlzw => by simp [hphase] at hlzw, rfl, rfl, fun _ => ?_⟩
  simp only [Work.turnsLeft, hphase, List.length_take, List.length_drop]
  omega

/-- R117: a turn of a decode loop that goes on, other than on a trailer. -/
theorem streamNext_goesOn {w w' : Work} (hinv : w.InflateInv) (htrailer : w.phase ≠ .trailer)
    (h : streamNext w = .running w') : w.GoesOn w' := by
  cases hphase : w.phase with
  | idle => simp only [streamNext, fetch, hphase] at h; cases h
  | hex =>
    obtain ⟨hlt, hi, out, rfl⟩ := streamNext_running_hex hphase h
    refine ⟨by simp [hphase], fun _ hlzw => by simp [hphase] at hlzw, rfl, rfl, fun _ => ?_⟩
    simp only [Work.turnsLeft, hphase]; omega
  | a85 =>
    obtain ⟨hlt, -, ⟨acc, n, out, rfl⟩ | ⟨-, rfl⟩⟩ := streamNext_running_a85 hphase h
    · refine ⟨by simp [hphase], fun _ hlzw => by simp [hphase] at hlzw, rfl, rfl, fun _ => ?_⟩
      simp only [Work.turnsLeft, hphase]; omega
    · refine ⟨by simp, fun _ hlzw => by simp at hlzw, by rw [hphase]; rfl, rfl, fun _ => ?_⟩
      simp only [Work.turnsLeft, hphase]; omega
  | a85End => exact absurd h (streamNext_not_running_a85End hphase)
  | rle =>
    obtain ⟨ip, out, rfl, hlt, hle, -⟩ := streamNext_running_rle hphase h
    refine ⟨by simp [hphase], fun _ hlzw => by simp [hphase] at hlzw, rfl, rfl, fun _ => ?_⟩
    simp only [Work.turnsLeft, hphase]; omega
  | lzw =>
    obtain ⟨hle, hturn, out, hframe⟩ := streamNext_running_lzw hphase h
    rw [hframe]
    refine ⟨by simp [hphase], fun hwide _ => hturn.width (hwide hphase), rfl, rfl, fun hwide => ?_⟩
    have hwidth := hwide hphase
    simp only [Work.turnsLeft, hphase, hturn.bp]; omega
  | zlibHeader =>
    rw [streamNext_running_zlibHeader hphase h]
    refine ⟨by simp, fun _ hlzw => by simp at hlzw, by rw [hphase]; rfl, rfl, fun _ => ?_⟩
    simp only [Work.turnsLeft, hphase, Work.bitEnd]; omega
  | blockHeader => exact (streamNext_running_blockHeader hphase h).goesOn (by rw [hphase]; rfl)
  | codeLengths => exact (streamNext_running_codeLengths hphase hinv h).goesOn (by rw [hphase]; rfl)
  | data => exact (streamNext_running_data hphase h).goesOn (by rw [hphase]; rfl)
  | distance => exact (streamNext_running_distance hphase h).goesOn (by rw [hphase]; rfl)
  | trailer => exact absurd hphase htrailer
  | predictor =>
    obtain ⟨-, -, rfl⟩ := streamNext_running_predictor hphase h
    refine ⟨by simp, fun _ hlzw => by simp at hlzw, by rw [hphase]; rfl, rfl, fun _ => ?_⟩
    simp only [Work.turnsLeft, hphase]; omega
  | png =>
    obtain ⟨t, hread, -, hrow⟩ := streamNext_running_png hphase h
    exact pngRow_goesOn hphase hread hrow

/-- A decode loop that runs to its end, whatever its budget: the result is never `running`. -/
inductive Work.Runs : Work → Progress → Prop
  | done {w w' : Work} (h : streamNext w = .done w') : Runs w (.done w')
  | raised {w : Work} {e : Status} (h : streamNext w = .raised e) : Runs w (.raised e)
  | running {w w' : Work} {r : Progress} (h : streamNext w = .running w') (hrest : Runs w' r) : Runs w r

theorem Work.Runs.ne_running {w w' : Work} {r : Progress} (h : w.Runs r) : r ≠ .running w' := by
  induction h with
  | done _ | raised _ => exact Progress.noConfusion
  | running _ _ ih => exact ih

theorem Work.Runs.unique {w : Work} {r r' : Progress} (h : w.Runs r) (h' : w.Runs r') : r = r' := by
  induction h with
  | done hturn => cases h' <;> simp_all
  | raised hturn => cases h' <;> simp_all
  | running hturn _ ih =>
    cases h' with
    | done hturn' | raised hturn' => simp_all
    | running hturn' hrest' =>
      rw [hturn] at hturn'
      cases hturn'
      exact ih hrest'

/-- A loop whose turns bring it nearer to its end, by `turnsLeft`, runs to its end within that budget. -/
theorem runs_of_turnsLeft {live : Work → Bool} {I : Work → Prop} (hlive : ∀ w, I w → live w = true)
    (hturn : ∀ w w', I w → streamNext w = .running w' → I w' ∧ w'.turnsLeft < w.turnsLeft) :
    ∀ {fuel : Nat} {w : Work}, I w → w.turnsLeft ≤ fuel → w.Runs (runStream live fuel w)
  | 0, w, _, hfuel => absurd w.turnsLeft_pos (Nat.not_lt.mpr hfuel)
  | fuel + 1, w, hw, hfuel => by
    cases hnext : streamNext w with
    | done w' => simpa only [runStream, hlive w hw, if_true, hnext] using Work.Runs.done hnext
    | raised e => simpa only [runStream, hlive w hw, if_true, hnext] using Work.Runs.raised hnext
    | running w' =>
      obtain ⟨hw', hlt⟩ := hturn w w' hw hnext
      simpa only [runStream, hlive w hw, if_true, hnext] using
        Work.Runs.running hnext (runs_of_turnsLeft hlive hturn hw' (by omega))

theorem inflateInv_of_not_inInflate {w : Work} (h : w.phase.inInflate = false) : w.InflateInv := by
  refine inflateInv_of_phase ?_ ?_ <;> rintro hphase <;> rw [hphase] at h <;> cases h

/-- A loop outside inflate: that of a byte stream, of LZW codes or of predictor reversal. -/
def Work.OutsideInflate (w : Work) : Prop := w.phase.inInflate = false ∧ w.WideCodes

/-- R400: a loop outside inflate ends. -/
theorem runs_of_outsideInflate {fuel : Nat} {w : Work} (hw : w.OutsideInflate) (hfuel : w.turnsLeft ≤ fuel) :
    w.Runs (runStream untilEnd fuel w) := by
  refine runs_of_turnsLeft (I := Work.OutsideInflate) (fun _ _ => rfl) (fun w w' ⟨hphase, hwide⟩ hnext => ?_) hw hfuel
  have hgoes : w.GoesOn w' := streamNext_goesOn (inflateInv_of_not_inInflate hphase)
    (fun htrailer => by rw [htrailer] at hphase; cases hphase) hnext
  exact ⟨⟨hgoes.stream.trans hphase, hgoes.wide hwide⟩, hgoes.lt hwide⟩

/-- R290: a loop inside inflate, with no `PARAMS` to go on to. -/
structure Work.InsideInflate (w : Work) : Prop where
  phase : w.phase.inInflate = true
  params : w.params = none
  inv : w.InflateInv

/-- R298, R300, R305: a turn of inflate before its trailer keeps what holds of its registers, and changes nothing but
them and the phase. -/
theorem streamNext_inInflate {w w' : Work} (hin : w.phase.inInflate = true) (htrailer : w.phase ≠ .trailer)
    (hinv : w.InflateInv) (h : streamNext w = .running w') :
    w'.InflateInv ∧ ∃ phase inf, w' = { w with phase := phase, inf := inf } := by
  cases hphase : w.phase with
  | zlibHeader =>
    rw [streamNext_running_zlibHeader hphase h]
    exact ⟨inflateInv_of_phase (by simp) (by simp), _, _, rfl⟩
  | blockHeader => exact have hturn := streamNext_running_blockHeader hphase h; ⟨hturn.inv, hturn.frame⟩
  | codeLengths => exact have hturn := streamNext_running_codeLengths hphase hinv h; ⟨hturn.inv, hturn.frame⟩
  | data => exact have hturn := streamNext_running_data hphase h; ⟨hturn.inv, hturn.frame⟩
  | distance => exact have hturn := streamNext_running_distance hphase h; ⟨hturn.inv, hturn.frame⟩
  | trailer => exact absurd hphase htrailer
  | idle | hex | a85 | a85End | rle | lzw | predictor | png => rw [hphase] at hin; cases hin

theorem Work.InsideInflate.next {w w' : Work} (hw : w.InsideInflate) (h : streamNext w = .running w') :
    w.GoesOn w' ∧ w'.InsideInflate ∧ ∃ phase inf, w' = { w with phase := phase, inf := inf } := by
  have htrailer : w.phase ≠ .trailer := fun hphase => by
    obtain ⟨q, hq, -⟩ := streamNext_running_trailer hphase h
    cases hq.symm.trans hw.params
  have hgoes := streamNext_goesOn hw.inv htrailer h
  obtain ⟨hinv, hframe⟩ := streamNext_inInflate hw.phase htrailer hw.inv h
  exact ⟨hgoes, ⟨hgoes.stream.trans hw.phase, hgoes.params.trans hw.params, hinv⟩, hframe⟩

/-- Every turn of a decode that goes on keeps what holds of the registers of inflate, and the decode running. -/
theorem streamNext_inflateInv {w w' : Work} (hinv : w.InflateInv) (h : streamNext w = .running w') :
    w'.phase ≠ .idle ∧ w'.InflateInv := by
  by_cases htrailer : w.phase = .trailer
  · obtain ⟨q, -, rfl⟩ := streamNext_running_trailer htrailer h
    exact ⟨Phase.noConfusion, inflateInv_of_not_inInflate rfl⟩
  · have hgoes := streamNext_goesOn hinv htrailer h
    refine ⟨hgoes.busy, ?_⟩
    cases hin : w.phase.inInflate with
    | true => exact (streamNext_inInflate hin htrailer hinv h).1
    | false => exact inflateInv_of_not_inInflate (hgoes.stream.trans hin)

theorem inflating_of_inInflate {w : Work} (h : w.phase.inInflate = true) : inflating w = true := by
  unfold inflating
  split <;> simp_all [Phase.inInflate, Phase.inDeflate]

/-- R400: inflate ends. -/
theorem runs_inflateRun (bs : Bytes) : (flateStart bs none).Runs (inflateRun bs none) := by
  refine runs_of_turnsLeft (I := Work.InsideInflate) (fun w hw => inflating_of_inInflate hw.phase)
    (fun w w' hw h => ?_) ⟨rfl, rfl, inflateInv_of_phase (by rintro ⟨⟩) (by rintro ⟨⟩)⟩ ?_
  · obtain ⟨hgoes, hw', -⟩ := hw.next h
    refine ⟨hw', hgoes.lt fun hlzw => ?_⟩
    have hin := hw.phase
    rw [hlzw] at hin
    cases hin
  · simp only [Work.turnsLeft, flateStart, Work.bitEnd]
    omega

theorem runs_hexRun (bs : Bytes) (p : Option Params) : (hexStart bs p).Runs (hexRun bs p) :=
  runs_of_outsideInflate ⟨rfl, fun h => by cases h⟩ (Nat.le_refl _)

theorem runs_a85Run (bs : Bytes) (p : Option Params) : (a85Start bs p).Runs (a85Run bs p) :=
  runs_of_outsideInflate ⟨rfl, fun h => by cases h⟩ (Nat.le_refl _)

theorem runs_rleRun (bs : Bytes) (p : Option Params) : (rleStart bs p).Runs (rleRun bs p) :=
  runs_of_outsideInflate ⟨rfl, fun h => by cases h⟩ (Nat.le_refl _)

theorem runs_lzwRun (bs : Bytes) (p : Option Params) : (lzwStart bs p).Runs (lzwRun bs p) := by
  refine runs_of_outsideInflate ⟨rfl, fun _ => Nat.le_refl 9⟩ ?_
  simp only [Work.turnsLeft, lzwStart, LzwRegs.start]
  omega

theorem runs_reversal (bs y : Bytes) (q : Params) :
    (reversalStart bs y q).Runs (runStream untilEnd (y.length + 2) (reversalStart bs y q)) :=
  runs_of_outsideInflate ⟨rfl, fun h => by cases h⟩ (Nat.le_refl _)

/-- R400: `FLATE.DECODE` ends. -/
theorem flateRun_ne_running (bs : Bytes) (p : Option Params) (w : Work) : flateRun inflate bs p ≠ .running w := by
  cases hy : inflate bs with
  | none => rw [flateRun_of_none hy]; exact Progress.noConfusion
  | some y =>
    cases p with
    | none => rw [flateRun_of_noParams hy]; exact Progress.noConfusion
    | some q => rw [flateRun_of_params hy]; exact (runs_reversal bs y q).ne_running

/-- The result of a decode: its status, and its output if it returns. -/
def Progress.result : Progress → Status × Bytes
  | .done w => (.ok, w.out)
  | .raised e => (e, [])
  | .running _ => (.ok, [])

/-- R62, R77, R350: a decode that ends delivers its result, and changes nothing else. -/
theorem deliver_of_ne_running {r : Progress} (h : ∀ w, r ≠ .running w) (s : State) :
    deliver r s = .next { s with status := r.result.1, out := r.result.2, work := .idle } := by
  cases r with
  | done w => rfl
  | raised e => rfl
  | running w => exact absurd rfl (h w)

theorem Progress.result_of_ne_ok {r : Progress} (h : r.result.1 ≠ .ok) : r.result.2 = [] := by
  cases r with
  | done w => exact absurd rfl h
  | raised e => rfl
  | running w => rfl

/-- The body that a `DECODE` runs on a present input. -/
def decodeRun (u : UnitId) (bs : Bytes) (p : Option Params) : Progress :=
  match u with
  | .hex => hexRun bs p
  | .a85 => a85Run bs p
  | .flate => flateRun inflate bs p
  | .rle => rleRun bs p
  | .lzw => lzwRun bs p

theorem exec_decode (u : UnitId) (w : CommandWord) (s : State) :
    exec (commandInstr u .decode w) s = decodeCommandBody (decodeRun u) w.input w.params s := by
  cases u <;> rfl

theorem decodeRun_ne_running (u : UnitId) (bs : Bytes) (p : Option Params) (w : Work) :
    decodeRun u bs p ≠ .running w := by
  cases u with
  | hex => exact (runs_hexRun bs p).ne_running
  | a85 => exact (runs_a85Run bs p).ne_running
  | flate => exact flateRun_ne_running bs p w
  | rle => exact (runs_rleRun bs p).ne_running
  | lzw => exact (runs_lzwRun bs p).ne_running

/-- Settles O18: an absent input is a fault, a present one is decoded from its own start registers. -/
theorem decodeIsAPureFunction : Obligations.DecodeIsAPureFunction := by
  intro u w
  cases hinput : w.input with
  | none =>
    refine ⟨.invalidHandle, [], fun _ => rfl, fun s => ?_⟩
    rw [exec_decode, hinput]
    rfl
  | some bs =>
    refine ⟨(decodeRun u bs w.params).result.1, (decodeRun u bs w.params).result.2, Progress.result_of_ne_ok,
      fun s => ?_⟩
    rw [exec_decode, hinput]
    exact deliver_of_ne_running (decodeRun_ne_running u bs w.params) s

/-- R340, R400: every command word gives a next state. -/
theorem exec_decodeCommand_next (w : CommandWord) (s : State) : ∃ t, exec (decodeCommand w) s = .next t := by
  unfold decodeCommand
  split
  · exact ⟨_, rfl⟩
  · rename_i u _
    split
    · cases cmdOp w.cmd with
      | beginEncode | encodeBlock | endEncode => cases u <;> exact ⟨_, rfl⟩
      | decode =>
        obtain ⟨e, x, -, hexec⟩ := decodeIsAPureFunction u { w with params := w.params.map (·.onPort Config.stream) }
        exact ⟨_, hexec s⟩
    · exact ⟨_, rfl⟩

theorem step_next (s : State) : ∃ t, step s = .next t := by
  by_cases hphase : s.work.phase = .idle
  · obtain ⟨-, hstep⟩ | ⟨rest, -, hstep⟩ | ⟨w, rest, -, hstep⟩ := step_idle hphase
    · exact ⟨s, hstep⟩
    · exact ⟨_, hstep⟩
    · rw [hstep]; exact exec_decodeCommand_next w _
  · rw [step_running hphase]
    obtain ⟨w, -, h⟩ | ⟨w, -, h⟩ | ⟨e, -, h⟩ := onWork_cases (streamNext ·) s <;> exact ⟨_, h⟩

theorem run_next (n : Nat) : ∀ s : State, ∃ t, Host.Core.run Sys2Proof.core n s = .next t := by
  induction n with
  | zero => exact fun s => ⟨s, rfl⟩
  | succ n ih =>
    intro s
    obtain ⟨t, ht⟩ := step_next s
    have hstep : Sys2Proof.core.step s = .next t := ht
    simp only [Host.Core.run, hstep]
    exact ih t

/-- Settles O15: every step gives a next state, since every loop of a command ends. -/
theorem everyRunIsSafe : Obligations.EveryRunIsSafe := fun s n => run_next n s

end Sys2Proof.Machine

/-! ## Inflate does not look at `PARAMS` before its trailer (42_flate.md R189, R193) -/

namespace Sys2Proof.Machine

/-- Two turns of inflate that go on with the same registers but for `PARAMS`, or are the `error` of R312. -/
inductive Progress.SameBut (p : Option Params) : Progress → Progress → Prop
  | running (w : Work) : SameBut p (.running w) (.running { w with params := p })
  | error : SameBut p inflateError inflateError

theorem Progress.SameBut.eq_running {p : Option Params} {w : Work} {r : Progress} (h : SameBut p (.running w) r) :
    r = .running { w with params := p } := by
  cases h; rfl

/-- A symbol's effect that `PARAMS` does not matter to, and that does not end the command with `OK`. -/
def IgnoresParams (f : Work → Progress) : Prop :=
  ∀ (w : Work) (p : Option Params), Progress.SameBut p (f w) (f { w with params := p })

theorem sameBut_of_error {f : Work → Progress} {w : Work}
    (h : ∀ p, f { w with params := p } = inflateError) (p : Option Params) :
    Progress.SameBut p (f w) (f { w with params := p }) := by
  have hsame : f w = inflateError := h w.params
  rw [h p, hsame]
  exact .error

theorem zlibHeader_ignoresParams (cmf flg : Byte) : IgnoresParams (zlibHeader cmf flg) := fun w p => by
  unfold zlibHeader
  split <;> constructor

theorem deflateBlockStored_ignoresParams (final : Bool) : IgnoresParams (deflateBlockStored final) := fun w p => by
  cases hlen : readLsb w.input (alignUp w.inf.bitPos) 16 with
  | none => simp only [deflateBlockStored, readField, hlen]; constructor
  | some len =>
    cases hnlen : readLsb w.input (alignUp w.inf.bitPos + 16) 16 with
    | none => simp only [deflateBlockStored, readField, hlen, hnlen]; constructor
    | some nlen =>
      simp only [deflateBlockStored, readField, hlen, hnlen]
      (repeat' split) <;> constructor

theorem readFields_params (n : Nat) (p : Option Params) : ∀ (k : Nat) (w : Work),
    readFields { w with params := p } n k = (readFields w n k).map (fun r => (r.1, { r.2 with params := p }))
  | 0, _ => rfl
  | k + 1, w => by
    cases hread : readLsb w.input w.inf.bitPos n with
    | none => simp only [readFields, readField, hread, Option.map_none]
    | some v =>
      have hrest := readFields_params n p k (w.skipBits n)
      simp only [readFields, readField_of_some hread, readField_of_some (w := { w with params := p }) hread]
      rw [show ({ w with params := p } : Work).skipBits n = { w.skipBits n with params := p } from rfl, hrest]
      cases readFields (w.skipBits n) n k <;> rfl

theorem deflateBlockDynamic_ignoresParams (final : Bool) : IgnoresParams (deflateBlockDynamic final) := fun w p => by
  cases hlit_read : readLsb w.input w.inf.bitPos 5 with
  | none =>
    exact sameBut_of_error (fun p => deflateBlockDynamic_of_cut (w := { w with params := p }) final
      (.inl hlit_read)) p
  | some hlit =>
    cases hdist_read : readLsb w.input (w.inf.bitPos + 5) 5 with
    | none =>
      exact sameBut_of_error (fun p => deflateBlockDynamic_of_cut (w := { w with params := p }) final
        (.inr (.inl hdist_read))) p
    | some hdist =>
      cases hclen_read : readLsb w.input (w.inf.bitPos + 10) 4 with
      | none =>
        exact sameBut_of_error (fun p => deflateBlockDynamic_of_cut (w := { w with params := p }) final
          (.inr (.inr hclen_read))) p
      | some hclen =>
        rw [deflateBlockDynamic_of_counts final hlit_read hdist_read hclen_read,
          deflateBlockDynamic_of_counts (w := { w with params := p }) final hlit_read hdist_read hclen_read,
          show ({ w with params := p } : Work).skipBits 14 = { w.skipBits 14 with params := p } from rfl,
          readFields_params 3 p (hclen + 4) (w.skipBits 14)]
        split
        · constructor
        cases readFields (w.skipBits 14) 3 (hclen + 4) with
        | none => constructor
        | some r =>
          simp only [Option.map_some, Option.elim_some]
          (repeat' split) <;> constructor

theorem pushLens_ignoresParams (xs : List Nat) : IgnoresParams (pushLens xs) := fun w p => by
  simp only [pushLens, finishLens]
  (repeat' split) <;> constructor

/-- An effect that reads some extra bits first. -/
theorem IgnoresParams.readField {n : Nat} {f : Nat → Work → Progress} (h : ∀ x, IgnoresParams (f x)) :
    IgnoresParams fun w => match Sys2Proof.Machine.readField w n with
      | none => inflateError
      | some (x, w') => f x w' := fun w p => by
  cases hread : readLsb w.input w.inf.bitPos n with
  | none => simp only [Sys2Proof.Machine.readField, hread]; constructor
  | some v => simp only [Sys2Proof.Machine.readField, hread]; exact h v (w.skipBits n) p

theorem deflateCodelen16_ignoresParams : IgnoresParams deflateCodelen16 := fun w p => by
  cases hlast : w.inf.lens.getLast? with
  | none => simp only [deflateCodelen16, hlast]; constructor
  | some l =>
    simp only [deflateCodelen16, hlast]
    exact IgnoresParams.readField (fun x => pushLens_ignoresParams (List.replicate (3 + x) l)) w p

theorem deflateSymLength_ignoresParams (sym : BitVec 9) : IgnoresParams (deflateSymLength sym) := fun w p => by
  unfold deflateSymLength
  generalize sym.toNat - 257 = k
  exact IgnoresParams.readField (n := lengthExtra.getD k 0) (f := fun x w => .running { w with
    phase := .distance, inf := { w.inf with copyLen := lengthBase.getD k 0 + x } }) (fun _ _ _ => by constructor) w p

theorem deflateSymDistance_ignoresParams (sym : BitVec 5) : IgnoresParams (deflateSymDistance sym) := fun w p => by
  cases hread : readLsb w.input w.inf.bitPos (distExtra.getD sym.toNat 0) with
  | none => simp only [deflateSymDistance, readField, hread]; constructor
  | some x =>
    simp only [deflateSymDistance, readField, hread]
    (repeat' split) <;> constructor

/-- Every symbol of the DEFLATE data but the trailer ignores `PARAMS`. -/
theorem runSymbol_ignoresParams {i : Instr} (h : (∃ final n, i = decodeBlockHeader final n) ∨
    (∃ sym, decodeCodelen sym = some i) ∨ (∃ sym, decodeLitLen sym = some i) ∨ ∃ sym, decodeDistance sym = some i) :
    IgnoresParams (runSymbol i ·) := by
  obtain ⟨final, n, rfl⟩ | ⟨sym, h⟩ | ⟨sym, h⟩ | ⟨sym, h⟩ := h
  · unfold decodeBlockHeader
    split
    · exact deflateBlockStored_ignoresParams final
    · exact fun _ _ => by constructor
    · exact deflateBlockDynamic_ignoresParams final
    · exact fun _ _ => by constructor
  · unfold decodeCodelen at h
    split at h
    · cases h; exact pushLens_ignoresParams _
    · split at h <;> cases h
      · exact deflateCodelen16_ignoresParams
      · exact .readField fun x => pushLens_ignoresParams _
      · exact .readField fun x => pushLens_ignoresParams _
  · unfold decodeLitLen at h
    (repeat' split at h) <;> cases h
    · exact fun _ _ => by constructor
    · exact fun _ _ => by constructor
    · intro w p
      simp only [runSymbol]
      exact deflateSymLength_ignoresParams _ w p
    · exact fun _ _ => by constructor
  · unfold decodeDistance at h
    (repeat' split at h) <;> cases h
    · exact deflateSymDistance_ignoresParams _
    · exact fun _ _ => by constructor

theorem fetch_codeLengths {w : Work} (hphase : w.phase = .codeLengths) :
    fetch w = fetchedSymbol w decodeCodelen (readSymbol w.input w.inf.clCode w.inf.bitPos) := by
  simp only [fetch, hphase]

theorem fetch_data {w : Work} (hphase : w.phase = .data) :
    fetch w = fetchedSymbol w decodeLitLen (readSymbol w.input w.inf.litCode w.inf.bitPos) := by
  simp only [fetch, hphase]

theorem fetch_distance {w : Work} (hphase : w.phase = .distance) :
    fetch w = fetchedSymbol w decodeDistance (readSymbol w.input w.inf.distCode w.inf.bitPos) := by
  simp only [fetch, hphase]

/-- A turn on a Huffman code whose symbols ignore `PARAMS`. -/
theorem fetchedSymbol_params {w : Work} {p : Option Params} {decodeSym : Nat → Option Instr} {read : Option (Nat × Nat)}
    (hfetch : fetch w = fetchedSymbol w decodeSym read)
    (hfetch' : fetch { w with params := p } = fetchedSymbol { w with params := p } decodeSym read)
    (hsyms : ∀ {sym i}, decodeSym sym = some i → IgnoresParams (runSymbol i ·)) :
    Progress.SameBut p (streamNext w) (streamNext { w with params := p }) := by
  simp only [streamNext, hfetch, hfetch']
  cases read with
  | none => constructor
  | some r =>
    simp only [fetchedSymbol]
    cases hsym : decodeSym r.1 with
    | none => constructor
    | some i => exact hsyms hsym (w.atBit r.2) p

/-- R189: a turn of inflate before its trailer ignores `PARAMS`. -/
theorem streamNext_params {w : Work} (hphase : w.phase.inInflate = true) (htrailer : w.phase ≠ .trailer)
    (p : Option Params) : Progress.SameBut p (streamNext w) (streamNext { w with params := p }) := by
  obtain ⟨phase, hp⟩ : ∃ phase, w.phase = phase := ⟨_, rfl⟩
  cases phase with
  | zlibHeader =>
    cases hcmf : w.input[0]? with
    | none =>
      exact sameBut_of_error (f := (streamNext ·)) (fun p => streamNext_zlibHeader_cut (w := { w with params := p }) hp (.inl hcmf)) p
    | some cmf =>
      cases hflg : w.input[1]? with
      | none =>
        exact sameBut_of_error (f := (streamNext ·)) (fun p => streamNext_zlibHeader_cut (w := { w with params := p }) hp (.inr hflg)) p
      | some flg =>
        rw [streamNext_zlibHeader hp hcmf hflg, streamNext_zlibHeader (w := { w with params := p }) hp hcmf hflg]
        exact zlibHeader_ignoresParams cmf flg w p
  | blockHeader =>
    cases hread : readLsb w.input w.inf.bitPos 3 with
    | none => exact sameBut_of_error (f := (streamNext ·)) (fun p => streamNext_blockHeader_cut (w := { w with params := p }) hp hread) p
    | some v =>
      rw [streamNext_blockHeader hp hread, streamNext_blockHeader (w := { w with params := p }) hp hread]
      exact runSymbol_ignoresParams (.inl ⟨_, _, rfl⟩) (w.atBit (w.inf.bitPos + 3)) p
  | codeLengths =>
    exact fetchedSymbol_params (decodeSym := decodeCodelen) (fetch_codeLengths hp)
      (fetch_codeLengths (w := { w with params := p }) hp) fun h => runSymbol_ignoresParams (.inr (.inl ⟨_, h⟩))
  | data =>
    exact fetchedSymbol_params (decodeSym := decodeLitLen) (fetch_data hp)
      (fetch_data (w := { w with params := p }) hp) fun h => runSymbol_ignoresParams (.inr (.inr (.inl ⟨_, h⟩)))
  | distance =>
    exact fetchedSymbol_params (decodeSym := decodeDistance) (fetch_distance hp)
      (fetch_distance (w := { w with params := p }) hp) fun h => runSymbol_ignoresParams (.inr (.inr (.inr ⟨_, h⟩)))
  | trailer => exact absurd hp htrailer
  | idle | hex | a85 | a85End | rle | lzw | predictor | png => rw [hp] at hphase; cases hphase

end Sys2Proof.Machine

/-! ## A decode run whole is its symbols run one step at a time (30_encoding.md R117) -/

namespace Sys2Proof.Machine

theorem core_run_succ {s t : State} (h : step s = .next t) (k : Nat) :
    Host.Core.run Sys2Proof.core (k + 1) s = Host.Core.run Sys2Proof.core k t := by
  have hstep : Sys2Proof.core.step s = .next t := h
  simp only [Host.Core.run, hstep]

/-- R5: the steps of a running decode make the loop that `Work.Runs` describes, and deliver its result. -/
theorem core_run_of_runs {w : Work} {r : Progress} (h : w.Runs r) : w.phase ≠ .idle → w.InflateInv → ∀ s : State,
    ∃ k, Host.Core.run Sys2Proof.core k { s with work := w } = deliver r s := by
  induction h with
  | @done w w' hturn =>
    refine fun hbusy _ s => ⟨1, core_run_succ (t := s.decodeDone w'.out) ?_ 0⟩
    exact (step_running (s := { s with work := w }) hbusy).trans (onWork_done hturn)
  | @raised w e hturn =>
    refine fun hbusy _ s => ⟨1, core_run_succ (t := s.decodeFault e) ?_ 0⟩
    exact (step_running (s := { s with work := w }) hbusy).trans (onWork_raised hturn)
  | @running w w' r hturn _ ih =>
    intro hbusy hinv s
    obtain ⟨hbusy', hinv'⟩ := streamNext_inflateInv hinv hturn
    obtain ⟨k, hk⟩ := ih hbusy' hinv' s
    refine ⟨k + 1, (core_run_succ ?_ k).trans hk⟩
    exact (step_running (s := { s with work := w }) hbusy).trans (onWork_running hturn)

/-- R310: with no `PARAMS` the turn of the trailer is an error or ends with the inflated bytes, and with `PARAMS` it
is then an error or goes on to predictor reversal. -/
theorem streamNext_trailer_params {w : Work} (hphase : w.phase = .trailer) (hparams : w.params = none) (q : Params) :
    (streamNext w = inflateError ∧ streamNext { w with params := some q } = inflateError) ∨
      (streamNext w = .done { w.pastTrailer with out := w.inf.infl } ∧
        streamNext { w with params := some q } =
          .running (loadParams q { w.pastTrailer with phase := .predictor, params := some q })) := by
  by_cases hlen : ((w.input.drop (2 + alignUp w.inf.bitPos / 8)).take 4).length = 4
  · obtain ⟨b0, b1, b2, b3, hread⟩ := exists_four_of_length hlen
    rw [streamNext_trailerBytes hphase hread, streamNext_trailerBytes (w := { w with params := some q }) hphase hread]
    split
    · exact .inr ⟨by rw [hparams]; rfl, rfl⟩
    · exact .inl ⟨rfl, rfl⟩
  · exact .inl ⟨streamNext_trailer_cut hphase hlen, streamNext_trailer_cut (w := { w with params := some q }) hphase hlen⟩

/-- R189, R310: inflate ends with an error, with `PARAMS` or without, or at a trailer whose inflated bytes are the
result without `PARAMS`, and what predictor reversal starts from with `PARAMS`. -/
theorem Work.Runs.insideInflate {w : Work} {r : Progress} (h : w.Runs r) : w.InsideInflate → ∀ q : Params,
    (r = inflateError ∧ ({ w with params := some q } : Work).Runs inflateError) ∨
      ∃ inf v, r = .done v ∧ v.out = inf.infl ∧ ∀ r',
        (loadParams q { ({ w with inf := inf } : Work).pastTrailer with
          phase := .predictor, params := some q }).Runs r' → ({ w with params := some q } : Work).Runs r' := by
  have hend {w : Work} {r : Progress} (hw : w.InsideInflate) (q : Params) (hturn : streamNext w = r)
      (hr : ∀ w', r ≠ .running w') :
      (r = inflateError ∧ streamNext { w with params := some q } = inflateError) ∨
        (w.phase = .trailer ∧ r = .done { w.pastTrailer with out := w.inf.infl } ∧
          streamNext { w with params := some q } =
            .running (loadParams q { w.pastTrailer with phase := .predictor, params := some q })) := by
    by_cases htrailer : w.phase = .trailer
    · rw [← hturn]
      obtain h | h := streamNext_trailer_params htrailer hw.params q
      · exact .inl h
      · exact .inr ⟨htrailer, h⟩
    · have hsame := streamNext_params hw.phase htrailer (some q)
      rw [hturn] at hsame
      revert hsame
      generalize streamNext { w with params := some q } = r'
      rintro (w' | _)
      · exact absurd rfl (hr w')
      · exact .inl ⟨rfl, rfl⟩
  induction h with
  | @done w w' hturn =>
    intro hw q
    obtain ⟨hr, -⟩ | ⟨-, hr, hgo⟩ := hend hw q hturn (fun _ => Progress.noConfusion)
    · cases hr
    · cases hr
      exact .inr ⟨w.inf, _, rfl, rfl, fun r' h' => .running hgo h'⟩
  | @raised w e hturn =>
    intro hw q
    obtain ⟨hr, hq⟩ | ⟨-, hr, -⟩ := hend hw q hturn (fun _ => Progress.noConfusion)
    · exact .inl ⟨hr, .raised hq⟩
    · cases hr
  | @running w w' r hturn _ ih =>
    intro hw q
    obtain ⟨-, hw', phase, inf', rfl⟩ := hw.next hturn
    have htrailer : w.phase ≠ .trailer := fun hphase => by
      obtain ⟨q', hq', -⟩ := streamNext_running_trailer hphase hturn
      cases hq'.symm.trans hw.params
    have hgo := (hturn ▸ streamNext_params hw.phase htrailer (some q)).eq_running
    obtain ⟨hr, hq⟩ | ⟨inf, v, hr, hout, hq⟩ := ih hw' q
    · exact .inl ⟨hr, .running hgo hq⟩
    · exact .inr ⟨inf, v, hr, hout, fun r' h' => .running hgo (hq r' h')⟩

/-- Two registers of predictor reversal that give the same rows (R216): they differ in the other registers of inflate,
and before the rows in the cursor. -/
structure Work.SameRows (a b : Work) : Prop where
  frame : a = { b with inf := a.inf, ip := a.ip }
  infl : a.inf.infl = b.inf.infl
  phase : b.phase = .predictor ∨ b.phase = .png ∧ a.ip = b.ip

/-- The turns of two registers that give the same rows: both go on so, or they end with the same result. -/
theorem Work.SameRows.next {a b : Work} (h : a.SameRows b) :
    (∃ a' b', streamNext a = .running a' ∧ streamNext b = .running b' ∧ a'.SameRows b') ∨
      (∃ e, streamNext a = .raised e ∧ streamNext b = .raised e) ∨
      ∃ a' b', streamNext a = .done a' ∧ streamNext b = .done b' ∧ a'.out = b'.out := by
  obtain ⟨hframe, hinfl, hphase | ⟨hphase, hip⟩⟩ := h
  · have hphase' : a.phase = .predictor := by rw [hframe]; exact hphase
    have hpred : a.pred = b.pred := by rw [hframe]
    rw [streamNext_predictor hphase', streamNext_predictor hphase, hpred, decodePredictor]
    repeat' split
    · exact .inr (.inr ⟨_, _, rfl, rfl, hinfl⟩)
    · exact .inr (.inl ⟨_, rfl, rfl⟩)
    · exact .inr (.inl ⟨_, rfl, rfl⟩)
    · simp only [runSymbol, predictorPng, hpred]
      split
      · exact .inr (.inl ⟨_, rfl, rfl⟩)
      · refine .inl ⟨_, _, rfl, rfl, ?_, hinfl, .inr ⟨rfl, rfl⟩⟩
        rw [hframe]
  · have hphase' : a.phase = .png := by rw [hframe]; exact hphase
    cases hread : b.inf.infl[b.ip]? with
    | none =>
      have hread' : a.inf.infl[a.ip]? = none := by rw [hinfl, hip, hread]
      rw [streamNext_pngEnd hphase hread, streamNext_pngEnd hphase' hread']
      exact .inr (.inr ⟨_, _, rfl, rfl, by rw [hframe]⟩)
    | some t =>
      have hread' : a.inf.infl[a.ip]? = some t := by rw [hinfl, hip, hread]
      by_cases hlegal : t.toNat ≤ 4
      · rw [streamNext_pngTag hphase hread hlegal, streamNext_pngTag hphase' hread' hlegal]
        have hpred : a.pred = b.pred := by rw [hframe]
        refine .inl ⟨_, _, rfl, rfl, ?_, hinfl, .inr ⟨hphase, ?_⟩⟩
        · simp only [hpred, hinfl, hip]
          rw [hframe]
        · simp only [hpred, hinfl, hip]
      · rw [streamNext_pngTag_illegal hphase hread hlegal, streamNext_pngTag_illegal hphase' hread' hlegal]
        exact .inr (.inl ⟨_, rfl, rfl⟩)

/-- Registers that give the same rows run to the same result. -/
theorem Work.Runs.sameRows {b : Work} {r : Progress} (h : b.Runs r) : ∀ {a : Work}, a.SameRows b →
    ∃ r', a.Runs r' ∧ r'.result = r.result := by
  induction h with
  | @done b b' hturn =>
    intro a hab
    obtain ⟨_, _, _, hb, -⟩ | ⟨_, _, hb⟩ | ⟨a', b'', ha, hb, hout⟩ := hab.next <;> cases hturn.symm.trans hb
    exact ⟨_, .done ha, congrArg (Prod.mk Status.ok) hout⟩
  | @raised b e hturn =>
    intro a hab
    obtain ⟨_, _, _, hb, -⟩ | ⟨_, ha, hb⟩ | ⟨_, _, _, hb, -⟩ := hab.next <;> cases hturn.symm.trans hb
    exact ⟨_, .raised ha, rfl⟩
  | @running b b' r hturn _ ih =>
    intro a hab
    obtain ⟨a', b'', ha, hb, hab'⟩ | ⟨_, _, hb⟩ | ⟨_, _, _, hb, -⟩ := hab.next <;> cases hturn.symm.trans hb
    obtain ⟨r', hr', hresult⟩ := ih hab'
    exact ⟨r', .running ha hr', hresult⟩

theorem insideInflate_flateStart (bs : Bytes) : (flateStart bs none).InsideInflate :=
  ⟨rfl, rfl, inflateInv_of_phase (by rintro ⟨⟩) (by rintro ⟨⟩)⟩

/-- R189, R190: the loop of `FLATE.DECODE`, inflate and then predictor reversal, has the result of the two in order. -/
theorem runs_flateStart (bs : Bytes) (p : Option Params) :
    ∃ r, (flateStart bs p).Runs r ∧ r.result = (flateRun inflate bs p).result := by
  have hrun := runs_inflateRun bs
  have hinflate : inflate bs = (zlibInflate bs).map Prod.fst := rfl
  cases p with
  | none =>
    refine ⟨inflateRun bs none, hrun, ?_⟩
    obtain ⟨hr, -⟩ | ⟨inf, v, hr, -⟩ := hrun.insideInflate (insideInflate_flateStart bs) ⟨none, none, none, none, none⟩
    · rw [zlibInflate, hr] at hinflate
      rw [flateRun_of_none hinflate, hr]; rfl
    · rw [zlibInflate, hr] at hinflate
      rw [flateRun_of_noParams hinflate, hr]; rfl
  | some q =>
    obtain ⟨hr, hq⟩ | ⟨inf, v, hr, hout, hq⟩ := hrun.insideInflate (insideInflate_flateStart bs) q
    · rw [zlibInflate, hr] at hinflate
      exact ⟨_, hq, by rw [flateRun_of_none hinflate]; rfl⟩
    · rw [zlibInflate, hr] at hinflate
      rw [flateRun_of_params hinflate]
      obtain ⟨r', hr', hresult⟩ := (runs_reversal bs v.out q).sameRows (a := loadParams q
        { ({ flateStart bs none with inf := inf } : Work).pastTrailer with phase := .predictor, params := some q })
        ⟨rfl, hout.symm, .inl rfl⟩
      exact ⟨r', hq r' hr', hresult⟩

theorem deliver_eq_of_result {r r' : Progress} (h : ∀ w, r ≠ .running w) (h' : ∀ w, r' ≠ .running w)
    (hresult : r.result = r'.result) (s : State) : deliver r s = deliver r' s := by
  rw [deliver_of_ne_running h, deliver_of_ne_running h', hresult]

/-- Settles O16: the loops of four units are those of their commands; FLATE's has the result of its two parts. -/
theorem symbolStepsMakeTheDecode : Obligations.SymbolStepsMakeTheDecode := by
  intro s bs p
  refine ⟨core_run_of_runs (runs_hexRun bs p) Phase.noConfusion (inflateInv_of_not_inInflate rfl) s,
    core_run_of_runs (runs_a85Run bs p) Phase.noConfusion (inflateInv_of_not_inInflate rfl) s, ?_,
    core_run_of_runs (runs_rleRun bs p) Phase.noConfusion (inflateInv_of_not_inInflate rfl) s,
    core_run_of_runs (runs_lzwRun bs p) Phase.noConfusion (inflateInv_of_not_inInflate rfl) s⟩
  obtain ⟨r, hrun, hresult⟩ := runs_flateStart bs p
  obtain ⟨k, hk⟩ := core_run_of_runs hrun Phase.noConfusion
    (inflateInv_of_phase (by rintro ⟨⟩) (by rintro ⟨⟩)) s
  refine ⟨k, hk.trans ?_⟩
  exact deliver_eq_of_result (fun w => hrun.ne_running) (flateRun_ne_running bs p) hresult s

end Sys2Proof.Machine

/-! ## Inflate reads its stream and nothing after it (42_flate.md R192) -/

namespace Sys2Proof.Machine

/-- Two inputs that have their first `c` bytes in common. -/
structure AgreeUpTo (c : Nat) (bs bs' : Bytes) : Prop where
  le : c ≤ bs.length
  le' : c ≤ bs'.length
  get : ∀ i, i < c → bs'[i]? = bs[i]?

theorem AgreeUpTo.lsbBit {c k : Nat} {bs bs' : Bytes} (h : AgreeUpTo c bs bs') (hk : k < 8 * (c - 2)) :
    lsbBit bs' k = lsbBit bs k := by
  rw [Machine.lsbBit, Machine.lsbBit, h.get _ (by omega)]

theorem AgreeUpTo.readLsb {c : Nat} {bs bs' : Bytes} (h : AgreeUpTo c bs bs') : ∀ {n k : Nat},
    k + n ≤ 8 * (c - 2) → readLsb bs' k n = readLsb bs k n
  | 0, _, _ => rfl
  | n + 1, k, hk => by
    rw [Machine.readLsb, Machine.readLsb, h.lsbBit (by omega), h.readLsb (n := n) (k := k + 1) (by omega)]

theorem AgreeUpTo.readSymbolFrom {cut : Nat} {bs bs' : Bytes} {code : HuffCode} (h : AgreeUpTo cut bs bs') :
    ∀ {fuel k l c sym next : Nat}, readSymbolFrom bs code fuel k l c = some (sym, next) → next ≤ 8 * (cut - 2) →
      readSymbolFrom bs' code fuel k l c = some (sym, next)
  | 0, _, _, _, _, _, hread, _ => by cases hread
  | fuel + 1, k, l, c, sym, next, hread, hnext => by
    obtain ⟨hlt, -⟩ := bounds_of_readSymbolFrom hread
    unfold Machine.readSymbolFrom at hread ⊢
    rw [h.lsbBit (by omega)]
    split at hread
    · cases hread
    · dsimp only at hread ⊢
      split at hread
      · exact hread
      · exact h.readSymbolFrom hread hnext

theorem AgreeUpTo.take_drop {c a n : Nat} {bs bs' : Bytes} (h : AgreeUpTo c bs bs') (hc : a + n ≤ c) :
    (bs'.drop a).take n = (bs.drop a).take n := by
  refine List.ext_getElem? fun i => ?_
  by_cases hi : i < n
  · rw [List.getElem?_take_of_lt hi, List.getElem?_take_of_lt hi, List.getElem?_drop, List.getElem?_drop,
      h.get _ (by omega)]
  · rw [List.getElem?_take_eq_none (by omega), List.getElem?_take_eq_none (by omega)]

/-- An effect on the registers of inflate that only moves the bit cursor on, and looks at no more of the input than
the cursor has passed. -/
structure ReadsLocally (f : Work → Progress) : Prop where
  mono : ∀ {w w' : Work}, f w = .running w' → w.inf.bitPos ≤ w'.inf.bitPos
  transfer : ∀ {c : Nat} {bs' : Bytes} {w w' : Work}, AgreeUpTo c w.input bs' → f w = .running w' →
    w'.inf.bitPos ≤ 8 * (c - 2) → f { w with input := bs' } = .running { w' with input := bs' }

theorem readsLocally_of_frame {f : Work → Work} (hcursor : ∀ w, w.inf.bitPos ≤ (f w).inf.bitPos)
    (hframe : ∀ w bs', f { w with input := bs' } = { f w with input := bs' }) :
    ReadsLocally fun w => .running (f w) where
  mono h := by cases h; exact hcursor _
  transfer _ h _ := by cases h; exact congrArg Progress.running (hframe _ _)

theorem readsLocally_error : ReadsLocally fun _ => inflateError := ⟨fun h => (by cases h), fun _ h _ => (by cases h)⟩

theorem deflateBlockStored_readsLocally (final : Bool) : ReadsLocally (deflateBlockStored final) := by
  refine ⟨fun h => (deflateBlockStored_readsOn h).cursor, fun {c bs' w w'} hagree h hcursor => ?_⟩
  obtain ⟨q, hq⟩ : ∃ q, q = (w.inf.bitPos + 7) / 8 := ⟨_, rfl⟩
  have halign : alignUp w.inf.bitPos = 8 * q := by rw [alignUp_eq, hq]
  cases hlen : readLsb w.input (8 * q) 16 with
  | none => simp only [deflateBlockStored, readField, halign, hlen] at h; cases h
  | some len =>
    cases hnlen : readLsb w.input (8 * q + 16) 16 with
    | none => simp only [deflateBlockStored, readField, halign, hlen, hnlen] at h; cases h
    | some nlen =>
      rw [deflateBlockStored_of_lengths final hq hlen hnlen] at h
      by_cases hcomplement : nlen ≠ len ^^^ 0xFFFF
      · rw [if_pos hcomplement] at h; cases h
      rw [if_neg hcomplement] at h
      by_cases hshort : w.input.length < 2 + (q + 4) + len
      · rw [if_pos hshort] at h; cases h
      rw [if_neg hshort] at h
      cases h
      have hend : 8 * (q + 4 + len) ≤ 8 * (c - 2) := hcursor
      have hle' := hagree.le'
      rw [deflateBlockStored_of_lengths (w := { w with input := bs' }) final hq
        ((hagree.readLsb (by omega)).trans hlen) ((hagree.readLsb (by omega)).trans hnlen), if_neg hcomplement,
        if_neg (by dsimp only; omega)]
      simp only [hagree.take_drop (a := 2 + (q + 4)) (n := len) (by omega)]

theorem AgreeUpTo.readFields {c n : Nat} {bs' : Bytes} : ∀ {k : Nat} {w w' : Work} {vals : List Nat},
    AgreeUpTo c w.input bs' → readFields w n k = some (vals, w') → w'.inf.bitPos ≤ 8 * (c - 2) →
    readFields { w with input := bs' } n k = some (vals, { w' with input := bs' })
  | 0, w, w', vals, _, h, _ => by cases h; rfl
  | k + 1, w, w', vals, hagree, h, hcursor => by
    cases hread : Machine.readLsb w.input w.inf.bitPos n with
    | none => simp only [Machine.readFields, readField_of_none hread] at h; cases h
    | some v =>
      simp only [Machine.readFields, readField_of_some hread] at h
      split at h
      · cases h
      · rename_i vs w'' hrest
        cases h
        obtain ⟨hframe, -⟩ := readFields_eq_some hrest
        have hpos : w.inf.bitPos + n ≤ w'.inf.bitPos := by
          rw [hframe]; exact Nat.le_add_right _ _
        have hfirst : readField { w with input := bs' } n = some (v, { w.skipBits n with input := bs' }) :=
          readField_of_some ((hagree.readLsb (by dsimp only; omega)).trans hread)
        simp only [Machine.readFields, hfirst, AgreeUpTo.readFields (w := w.skipBits n) hagree hrest hcursor]

theorem deflateBlockDynamic_readsLocally (final : Bool) : ReadsLocally (deflateBlockDynamic final) := by
  refine ⟨fun h => (deflateBlockDynamic_readsOn h).cursor, fun {c bs' w w'} hagree h hcursor => ?_⟩
  cases hlit_read : readLsb w.input w.inf.bitPos 5 with
  | none => rw [deflateBlockDynamic_of_cut final (.inl hlit_read)] at h; cases h
  | some hlit =>
    cases hdist_read : readLsb w.input (w.inf.bitPos + 5) 5 with
    | none => rw [deflateBlockDynamic_of_cut final (.inr (.inl hdist_read))] at h; cases h
    | some hdist =>
      cases hclen_read : readLsb w.input (w.inf.bitPos + 10) 4 with
      | none => rw [deflateBlockDynamic_of_cut final (.inr (.inr hclen_read))] at h; cases h
      | some hclen =>
        rw [deflateBlockDynamic_of_counts final hlit_read hdist_read hclen_read] at h
        split at h
        · cases h
        rename_i hmany
        cases hfields : readFields (w.skipBits 14) 3 (hclen + 4) with
        | none => rw [hfields] at h; cases h
        | some r =>
          obtain ⟨vals, w4⟩ := r
          rw [hfields, Option.elim_some] at h
          split at h
          case isFalse => cases h
          rename_i hcomplete
          cases h
          obtain ⟨hframe, -⟩ := readFields_eq_some hfields
          have hfields' := AgreeUpTo.readFields (w := w.skipBits 14) hagree hfields hcursor
          have hpos : w.inf.bitPos + 14 ≤ 8 * (c - 2) := by
            refine Nat.le_trans ?_ hcursor
            rw [hframe]; exact Nat.le_add_right _ _
          rw [deflateBlockDynamic_of_counts (w := { w with input := bs' }) final
            ((hagree.readLsb (by dsimp only; omega)).trans hlit_read) ((hagree.readLsb (by dsimp only; omega)).trans hdist_read)
            ((hagree.readLsb (by dsimp only; omega)).trans hclen_read), if_neg hmany,
            show ({ w with input := bs' } : Work).skipBits 14 = { w.skipBits 14 with input := bs' } from rfl,
            hfields', Option.elim_some, if_pos hcomplete]

theorem pushLens_readsLocally (xs : List Nat) : ReadsLocally (pushLens xs) := by
  refine ⟨fun h => ?_, fun _ h _ => ?_⟩
  · simp only [pushLens, finishLens] at h
    (repeat' split at h) <;> cases h <;> exact Nat.le_refl _
  · simp only [pushLens, finishLens] at h ⊢
    repeat' split at h
    · cases h
    · cases h
    next hmany hfull hend hboth => cases h; rw [if_neg hmany, if_pos hfull, if_neg hend, if_pos hboth]
    · cases h
    next hmany hfull => cases h; rw [if_neg hmany, if_neg hfull]

/-- An effect that reads some extra bits first. -/
theorem ReadsLocally.readField {n : Nat} {f : Nat → Work → Progress} (h : ∀ x, ReadsLocally (f x)) :
    ReadsLocally fun w => match Machine.readField w n with
      | none => inflateError
      | some (x, w') => f x w' := by
  have hmono {w w' : Work} {v : Nat} (hrun : f v (w.skipBits n) = .running w') : w.inf.bitPos + n ≤ w'.inf.bitPos :=
    (h v).mono hrun
  refine ⟨fun {w w'} hrun => ?_, fun {c bs' w w'} hagree hrun hcursor => ?_⟩
  · cases hread : readLsb w.input w.inf.bitPos n with
    | none => simp only [readField_of_none hread] at hrun; cases hrun
    | some v =>
      simp only [readField_of_some hread] at hrun
      exact Nat.le_trans (Nat.le_add_right _ n) (hmono hrun)
  · cases hread : readLsb w.input w.inf.bitPos n with
    | none => simp only [readField_of_none hread] at hrun; cases hrun
    | some v =>
      simp only [readField_of_some hread] at hrun
      have hpos := hmono hrun
      have hread' : Machine.readField { w with input := bs' } n = some (v, { w.skipBits n with input := bs' }) :=
        readField_of_some ((hagree.readLsb (by dsimp only; omega)).trans hread)
      simp only [hread']
      exact (h v).transfer (w := w.skipBits n) hagree hrun hcursor

/-- R300: code-length symbol 16 needs a previous length. -/
theorem deflateCodelen16_readsLocally : ReadsLocally deflateCodelen16 := by
  have hprev (l : Nat) := ReadsLocally.readField (n := 2) fun x => pushLens_readsLocally (List.replicate (3 + x) l)
  refine ⟨fun {w w'} h => ?_, fun {c bs' w w'} hagree h hcursor => ?_⟩
  · cases hlast : w.inf.lens.getLast? with
    | none => simp only [deflateCodelen16, hlast] at h; cases h
    | some l => simp only [deflateCodelen16, hlast] at h; exact (hprev l).mono h
  · cases hlast : w.inf.lens.getLast? with
    | none => simp only [deflateCodelen16, hlast] at h; cases h
    | some l => simp only [deflateCodelen16, hlast] at h ⊢; exact (hprev l).transfer hagree h hcursor

theorem deflateSymLength_readsLocally (sym : BitVec 9) : ReadsLocally (deflateSymLength sym) := by
  unfold deflateSymLength
  generalize sym.toNat - 257 = k
  exact ReadsLocally.readField (n := lengthExtra.getD k 0) (f := fun x w => .running { w with
    phase := .distance, inf := { w.inf with copyLen := lengthBase.getD k 0 + x } })
    fun _ => readsLocally_of_frame (fun _ => Nat.le_refl _) fun _ _ => rfl

/-- R306, R309: the copy of a distance symbol, its extra bits read. -/
def copyDistance (base x : Nat) (w : Work) : Progress :=
  if base + x > w.inf.infl.length then inflateError
  else .running { w with
    phase := .data
    inf := { w.inf with infl := copyBack (base + x) w.inf.copyLen w.inf.infl } }

theorem deflateSymDistance_readsLocally (sym : BitVec 5) : ReadsLocally (deflateSymDistance sym) := by
  refine ReadsLocally.readField (n := distExtra.getD sym.toNat 0)
    (f := copyDistance (distBase.getD sym.toNat 0)) fun x => ⟨fun h => ?_, fun _ h _ => ?_⟩
  · unfold copyDistance at h
    (repeat' split at h) <;> cases h
    exact Nat.le_refl _
  · unfold copyDistance at h ⊢
    split at h
    · cases h
    next hfar => cases h; exact if_neg hfar

/-- Every symbol of the DEFLATE data reads locally. -/
theorem runSymbol_readsLocally {i : Instr} (h : (∃ final n, i = decodeBlockHeader final n) ∨
    (∃ sym, decodeCodelen sym = some i) ∨ (∃ sym, decodeLitLen sym = some i) ∨ ∃ sym, decodeDistance sym = some i) :
    ReadsLocally (runSymbol i ·) := by
  obtain ⟨final, n, rfl⟩ | ⟨sym, h⟩ | ⟨sym, h⟩ | ⟨sym, h⟩ := h
  · unfold decodeBlockHeader
    split
    · exact deflateBlockStored_readsLocally final
    · exact readsLocally_of_frame (fun _ => Nat.le_refl _) fun _ _ => rfl
    · exact deflateBlockDynamic_readsLocally final
    · exact readsLocally_error
  · unfold decodeCodelen at h
    split at h
    · cases h; exact pushLens_readsLocally _
    · split at h <;> cases h
      · exact deflateCodelen16_readsLocally
      · exact .readField fun x => pushLens_readsLocally _
      · exact .readField fun x => pushLens_readsLocally _
  · unfold decodeLitLen at h
    (repeat' split at h) <;> cases h
    · exact readsLocally_of_frame (fun _ => Nat.le_refl _) fun _ _ => rfl
    · exact readsLocally_of_frame (fun _ => Nat.le_refl _) fun _ _ => rfl
    · simp only [runSymbol]
      exact deflateSymLength_readsLocally _
    · exact readsLocally_error
  · unfold decodeDistance at h
    (repeat' split at h) <;> cases h
    · exact deflateSymDistance_readsLocally _
    · exact readsLocally_error

/-- A turn on a Huffman code whose symbols read locally. -/
theorem streamNext_fetchedSymbol_locally {w w' : Work} {c : Nat} {bs' : Bytes} {decodeSym : Nat → Option Instr}
    {code : HuffCode} (hfetch : fetch w = fetchedSymbol w decodeSym (readSymbol w.input code w.inf.bitPos))
    (hfetch' : fetch { w with input := bs' } =
      fetchedSymbol { w with input := bs' } decodeSym (readSymbol bs' code w.inf.bitPos))
    (hsyms : ∀ {sym i}, decodeSym sym = some i → ReadsLocally (runSymbol i ·))
    (hagree : AgreeUpTo c w.input bs') (h : streamNext w = .running w') (hcursor : w'.inf.bitPos ≤ 8 * (c - 2)) :
    streamNext { w with input := bs' } = .running { w' with input := bs' } := by
  obtain hraised | ⟨sym, next, i, hread, hsym, hturn⟩ := streamNext_fetchedSymbol hfetch
  · rw [hraised] at h; cases h
  · rw [hturn] at h
    have hnext : next ≤ w'.inf.bitPos := (hsyms hsym).mono h
    have hread' : readSymbol bs' code w.inf.bitPos = some (sym, next) :=
      hagree.readSymbolFrom hread (Nat.le_trans hnext hcursor)
    simp only [streamNext, hfetch', hread', fetchedSymbol, hsym]
    exact (hsyms hsym).transfer (w := w.atBit next) hagree h hcursor

/-- R291, R292: after the header the bit cursor only moves on. -/
theorem streamNext_inInflate_cursor {w w' : Work} (hin : w.phase.inInflate = true) (htrailer : w.phase ≠ .trailer)
    (hinv : w.InflateInv) (h : streamNext w = .running w') :
    w'.phase.inDeflate = true ∧ (w.phase.inDeflate = true → w.inf.bitPos ≤ w'.inf.bitPos) := by
  cases hphase : w.phase with
  | zlibHeader =>
    rw [streamNext_running_zlibHeader hphase h]
    exact ⟨rfl, fun hdeflate => by cases hdeflate⟩
  | blockHeader => exact have hturn := streamNext_running_blockHeader hphase h; ⟨hturn.phase, fun _ => hturn.cursor⟩
  | codeLengths =>
    exact have hturn := streamNext_running_codeLengths hphase hinv h; ⟨hturn.phase, fun _ => hturn.cursor⟩
  | data => exact have hturn := streamNext_running_data hphase h; ⟨hturn.phase, fun _ => hturn.cursor⟩
  | distance => exact have hturn := streamNext_running_distance hphase h; ⟨hturn.phase, fun _ => hturn.cursor⟩
  | trailer => exact absurd hphase htrailer
  | idle | hex | a85 | a85End | rle | lzw | predictor | png => rw [hphase] at hin; cases hin

/-- R192: a turn of inflate before its trailer looks at no more of the input than its cursor passes. -/
theorem streamNext_locally {w w' : Work} {c : Nat} {bs' : Bytes} (hin : w.phase.inInflate = true)
    (htrailer : w.phase ≠ .trailer) (hagree : AgreeUpTo c w.input bs') (hc : 2 ≤ c)
    (h : streamNext w = .running w') (hcursor : w'.inf.bitPos ≤ 8 * (c - 2)) :
    streamNext { w with input := bs' } = .running { w' with input := bs' } := by
  obtain ⟨phase, hp⟩ : ∃ phase, w.phase = phase := ⟨_, rfl⟩
  cases phase with
  | zlibHeader =>
    cases hcmf : w.input[0]? with
    | none => rw [streamNext_zlibHeader_cut hp (.inl hcmf)] at h; cases h
    | some cmf =>
      cases hflg : w.input[1]? with
      | none => rw [streamNext_zlibHeader_cut hp (.inr hflg)] at h; cases h
      | some flg =>
        rw [streamNext_zlibHeader hp hcmf hflg, zlibHeader] at h
        rw [streamNext_zlibHeader (w := { w with input := bs' }) hp ((hagree.get 0 (by omega)).trans hcmf)
          ((hagree.get 1 (by omega)).trans hflg), zlibHeader]
        split at h
        next hok => cases h; exact if_pos hok
        · cases h
  | blockHeader =>
    cases hread : readLsb w.input w.inf.bitPos 3 with
    | none => rw [streamNext_blockHeader_cut hp hread] at h; cases h
    | some v =>
      rw [streamNext_blockHeader hp hread] at h
      have hlocal : ReadsLocally (runSymbol (decodeBlockHeader (v % 2 == 1) (v / 2)) ·) :=
        runSymbol_readsLocally (.inl ⟨_, _, rfl⟩)
      have hpos : w.inf.bitPos + 3 ≤ w'.inf.bitPos := hlocal.mono h
      rw [streamNext_blockHeader (w := { w with input := bs' }) hp
        ((hagree.readLsb (by dsimp only; omega)).trans hread)]
      exact hlocal.transfer (w := w.atBit (w.inf.bitPos + 3)) hagree h hcursor
  | codeLengths =>
    exact streamNext_fetchedSymbol_locally (decodeSym := decodeCodelen) (fetch_codeLengths hp)
      (fetch_codeLengths (w := { w with input := bs' }) hp)
      (fun h => runSymbol_readsLocally (.inr (.inl ⟨_, h⟩))) hagree h hcursor
  | data =>
    exact streamNext_fetchedSymbol_locally (decodeSym := decodeLitLen) (fetch_data hp)
      (fetch_data (w := { w with input := bs' }) hp)
      (fun h => runSymbol_readsLocally (.inr (.inr (.inl ⟨_, h⟩)))) hagree h hcursor
  | distance =>
    exact streamNext_fetchedSymbol_locally (decodeSym := decodeDistance) (fetch_distance hp)
      (fetch_distance (w := { w with input := bs' }) hp)
      (fun h => runSymbol_readsLocally (.inr (.inr (.inr ⟨_, h⟩)))) hagree h hcursor
  | trailer => exact absurd hp htrailer
  | idle | hex | a85 | a85End | rle | lzw | predictor | png => rw [hp] at hin; cases hin

/-- R310: a turn on the trailer that ends the command. -/
theorem streamNext_done_trailer {w v : Work} (hphase : w.phase = .trailer) (h : streamNext w = .done v) :
    v = { w.pastTrailer with out := w.inf.infl } ∧ v.ip ≤ w.input.length ∧
      ∀ {bs'}, AgreeUpTo v.ip w.input bs' → streamNext { w with input := bs' } = .done { v with input := bs' } := by
  have hdiv : 2 + alignUp w.inf.bitPos / 8 + 4 = 2 + w.trailerEnd / 8 := by
    simp only [Work.trailerEnd, alignUp]; omega
  by_cases hlen : ((w.input.drop (2 + alignUp w.inf.bitPos / 8)).take 4).length = 4
  · obtain ⟨b0, b1, b2, b3, hread⟩ := exists_four_of_length hlen
    rw [streamNext_trailerBytes hphase hread] at h
    split at h
    case isFalse => cases h
    rename_i hsum
    obtain ⟨params, hparams⟩ : ∃ params, w.params = params := ⟨_, rfl⟩
    cases params with
    | some q => rw [hparams] at h; cases h
    | none =>
      rw [hparams] at h
      cases h
      refine ⟨rfl, ?_, fun {bs'} hagree => ?_⟩
      · simp only [List.length_take, List.length_drop] at hlen
        simp only [Work.pastTrailer]
        omega
      · have hread' := (hagree.take_drop (n := 4) (Nat.le_of_eq hdiv)).trans hread
        rw [streamNext_trailerBytes (w := { w with input := bs' }) hphase hread', if_pos hsum]
        simp only [hparams, Option.elim_none, Work.pastTrailer, Work.trailerEnd]
  · rw [streamNext_trailer_cut hphase hlen] at h
    cases h

/-- R192, R290: a run of inflate to its end looks at no byte past those it says it has consumed. -/
theorem Work.Runs.locally {w : Work} {r : Progress} (h : w.Runs r) : w.InsideInflate → ∀ {v : Work}, r = .done v →
    v.ip ≤ w.input.length ∧ 6 ≤ v.ip ∧ (w.phase.inDeflate = true → w.inf.bitPos ≤ 8 * (v.ip - 2)) ∧
      ∀ {bs'}, AgreeUpTo v.ip w.input bs' → ({ w with input := bs' } : Work).Runs (.done { v with input := bs' }) := by
  induction h with
  | @done w w' hturn =>
    rintro hw v ⟨⟩
    have htrailer : w.phase = .trailer := by
      refine Classical.byContradiction fun hne => ?_
      have hsame := streamNext_params hw.phase hne none
      rw [hturn] at hsame
      cases hsame
    obtain ⟨rfl, hle, hlocal⟩ := streamNext_done_trailer htrailer hturn
    refine ⟨hle, ?_, fun _ => ?_, fun hagree => .done (hlocal hagree)⟩
    · simp only [Work.pastTrailer, Work.trailerEnd]; omega
    · simp only [Work.pastTrailer, Work.trailerEnd, alignUp]; omega
  | raised _ => rintro _ _ ⟨⟩
  | @running w w' r hturn _ ih =>
    intro hw v hv
    obtain ⟨hgoes, hw', phase, inf, hframe⟩ := hw.next hturn
    have htrailer : w.phase ≠ .trailer := fun hphase => by
      obtain ⟨q, hq, -⟩ := streamNext_running_trailer hphase hturn
      cases hq.symm.trans hw.params
    obtain ⟨hle, hsix, hcursor, hlocal⟩ := ih hw' hv
    have hinput : w'.input = w.input := by rw [hframe]
    obtain ⟨hin', hmono⟩ := streamNext_inInflate_cursor hw.phase htrailer hw.inv hturn
    rw [hinput] at hle hlocal
    refine ⟨hle, hsix, fun hin => ?_, fun hagree => .running ?_ (hlocal hagree)⟩
    · exact Nat.le_trans (hmono hin) (hcursor hin')
    · exact streamNext_locally hw.phase htrailer hagree (by omega) hturn (hcursor hin')

theorem zlibInflate_eq_some_iff {bs y : Bytes} {consumed : Nat} :
    zlibInflate bs = some (y, consumed) ↔ ∃ v, inflateRun bs none = .done v ∧ v.out = y ∧ v.ip = consumed := by
  unfold zlibInflate
  cases inflateRun bs none <;> simp

/-- R192: another input that starts with the bytes consumed inflates to the same. -/
theorem zlibInflate_of_agreeUpTo {bs bs' y : Bytes} {consumed : Nat} (h : zlibInflate bs = some (y, consumed))
    (hagree : AgreeUpTo consumed bs bs') : zlibInflate bs' = some (y, consumed) := by
  obtain ⟨v, hrun, rfl, rfl⟩ := zlibInflate_eq_some_iff.mp h
  obtain ⟨-, -, -, hlocal⟩ := (runs_inflateRun bs).locally (insideInflate_flateStart bs) hrun
  exact zlibInflate_eq_some_iff.mpr ⟨_, (runs_inflateRun bs').unique (hlocal hagree), rfl, rfl⟩

theorem consumed_le_of_zlibInflate {bs y : Bytes} {consumed : Nat} (h : zlibInflate bs = some (y, consumed)) :
    consumed ≤ bs.length := by
  obtain ⟨v, hrun, -, rfl⟩ := zlibInflate_eq_some_iff.mp h
  exact ((runs_inflateRun bs).locally (insideInflate_flateStart bs) hrun).1

theorem agreeUpTo_of_take {c k : Nat} {bs : Bytes} (rest : Bytes) (hck : c ≤ k) (hk : k ≤ bs.length) :
    AgreeUpTo c bs (bs.take k ++ rest) where
  le := Nat.le_trans hck hk
  le' := by rw [List.length_append, List.length_take]; omega
  get i hi := by rw [List.getElem?_append_left (by rw [List.length_take]; omega), List.getElem?_take_of_lt (by omega)]

/-- Settles O59: a shorter front part that inflated would, as the whole input starts with it, have been what the whole
input inflates to. -/
theorem inflateReadsExactlyItsStream : Obligations.InflateReadsExactlyItsStream := by
  intro bs y consumed h
  have hle := consumed_le_of_zlibInflate h
  refine ⟨hle, fun junk => zlibInflate_of_agreeUpTo h (agreeUpTo_of_take junk (Nat.le_refl _) hle), fun k hk => ?_⟩
  cases hprefix : zlibInflate (bs.take k) with
  | none => rfl
  | some r =>
    obtain ⟨y', consumed'⟩ := r
    have hle' := consumed_le_of_zlibInflate hprefix
    have hlen := List.length_take (i := k) (l := bs)
    have hagree : AgreeUpTo consumed' (bs.take k) bs :=
      ⟨hle', by omega, fun i hi => (List.getElem?_take_of_lt (by omega)).symm⟩
    cases h.symm.trans (zlibInflate_of_agreeUpTo hprefix hagree)
    omega

end Sys2Proof.Machine

/-! ## What a command can do to the state (60_exceptions.md R350 to R352) -/

namespace Sys2Proof.Machine

/-- What an `ENCODE_BLOCK` takes in changes a unit's buffered data only, and keeps I-c of R47. -/
structure State.Feeds (s s' : State) : Prop where
  frame : s' = { s with a85Tuple := s'.a85Tuple, a85Count := s'.a85Count, flateZ := s'.flateZ }
  tuple : s.tupleCoherent → s'.tupleCoherent

/-- What a command does: it responds only; it decodes; it opens a session; it feeds an active unit and appends to its
sink, and keeps the session open or closes it. -/
inductive State.CommandEffect (s : State) : State → Prop
  | responds (e : Status) : CommandEffect s (respond e [] s)
  | decodes (e : Status) (x : Bytes) (h : e ≠ .ok → x = []) :
      CommandEffect s { s with status := e, out := x, work := .idle }
  | begins (u : UnitId) (k : SinkId) (hinactive : s.active u = false) (hk : k ≠ 0) :
      CommandEffect s (returnOk ((s.setSession u ⟨true, k⟩).clearBuffers u Config.encoder.zInit))
  | emits (u : UnitId) (s' : State) (used : Nat) (x : Bytes) (hactive : s.active u = true) (hfed : s.Feeds s') :
      CommandEffect s (returnOk (s'.afterWrites used (s.sink u) x))
  | closes (u : UnitId) (s' : State) (used : Nat) (x : Bytes) (e : Status) (hactive : s.active u = true)
      (hfed : s.Feeds s') :
      CommandEffect s (respond e [] (closeSession u Config.encoder.zInit (s'.afterWrites used (s.sink u) x)))

theorem State.Feeds.refl (s : State) : s.Feeds s := ⟨rfl, id⟩

theorem State.Feeds.sink {s s' : State} (h : s.Feeds s') (u : UnitId) : s'.sink u = s.sink u := by
  rw [h.frame]; cases u <;> rfl

/-- I-c of R47 says that the tuple and the count are those of some bytes held back. -/
theorem exists_holdsBack {s : State} (hactive : s.a85.active = true) (h : s.tupleCoherent) : ∃ q, s.holdsBack q := by
  obtain ⟨hcount, hzero⟩ := h hactive
  refine ⟨(unpack32 s.a85Tuple.toNat).take s.a85Count.toNat, ?_, ?_, ?_⟩
  · rw [List.length_take]; omega
  · rw [List.length_take]; simp only [unpack32, List.length_cons, List.length_nil]; omega
  · have hlt := s.a85Tuple.isLt
    obtain ⟨c, hc⟩ : ∃ c, s.a85Count.toNat = c := ⟨_, rfl⟩
    rw [hc] at hcount hzero ⊢
    match c, hcount with
    | 0, _ | 1, _ | 2, _ | 3, _ =>
      simp only [unpack32, tupleNumber, List.take, List.getD_cons_zero, List.getD_cons_succ, List.getD_nil,
        BitVec.toNat_ofNat, BitVec.ofNat_eq_ofNat] at hzero ⊢
      omega

theorem tupleCoherent_of_holdsBack {s : State} {q : Bytes} (h : s.holdsBack q) : s.tupleCoherent := by
  obtain ⟨hlen, hcount, htuple⟩ := h
  refine fun _ => ⟨Nat.le_trans (Nat.le_of_eq hcount) hlen, ?_⟩
  rw [hcount, htuple, show 8 * (4 - q.length) = 8 * (3 - q.length) + 8 by omega]
  exact Nat.mod_eq_zero_of_dvd (two_pow_dvd_tupleNumber q hlen)

/-- R153: what `A85.ENCODE_BLOCK` takes in. -/
theorem a85Feed_feeds {s : State} (bs : Bytes) (hactive : s.a85.active = true) : s.Feeds (a85Feed bs s).2 := by
  refine ⟨rfl, fun htuple => ?_⟩
  obtain ⟨q, hq⟩ := exists_holdsBack hactive htuple
  exact tupleCoherent_of_holdsBack (a85Feed_spec bs hq).2

/-- R343, R344 a: what `BEGIN_ENCODE` can do. -/
theorem beginEncode_effect (u : UnitId) (k : SinkId) (s : State) :
    s.CommandEffect (beginEncode u k (·.clearBuffers u Config.encoder.zInit) s) := by
  obtain ⟨-, h⟩ | ⟨-, -, h⟩ | ⟨hinactive, hk, h⟩ := beginEncode_cases u k (·.clearBuffers u Config.encoder.zInit) s <;>
    rw [h]
  · exact .responds _
  · exact .responds _
  · exact .begins u k hinactive hk

/-- R354: the end of an encode command that emits, of an active unit. -/
theorem emitThen_effect {u : UnitId} {s s' : State} {x : Bytes} {after : State → State}
    (hafter : after = id ∨ after = closeSession u Config.encoder.zInit) (hactive : s.active u = true)
    (hfed : s.Feeds s') : s.CommandEffect (emitThen Config.parameters u x after s') := by
  obtain ⟨used, -, h | ⟨sent, -, -, h⟩⟩ := emitThen_cases Config.parameters u x after s' <;> rw [h, hfed.sink]
  · obtain rfl | rfl := hafter
    · exact .emits u s' used x hactive hfed
    · exact .closes u s' used x .ok hactive hfed
  · exact .closes u s' used sent .sinkFailure hactive hfed

/-- R343, R344 b: what `ENCODE_BLOCK` can do. -/
theorem encodeBlock_effect {u : UnitId} {input : Option Bytes} {feed : Bytes → State → Bytes × State} {s : State}
    (hfeed : ∀ bs, s.active u = true → s.Feeds (feed bs s).2) :
    s.CommandEffect (encodeBlock Config.parameters u input feed s) := by
  obtain ⟨-, h⟩ | ⟨hactive, -, h⟩ | ⟨hactive, bs, -, h⟩ := encodeBlock_cases Config.parameters u input feed s <;>
    rw [h]
  · exact .responds _
  · have hclose := State.CommandEffect.closes u s 0 [] .invalidHandle hactive (.refl s)
    rw [State.afterWrites, Memory.append_nil] at hclose
    exact hclose
  · exact emitThen_effect (.inl rfl) hactive (hfeed bs hactive)

/-- R343: what `END_ENCODE` can do. -/
theorem endEncode_effect (u : UnitId) (tail : State → Bytes) (s : State) :
    s.CommandEffect (endEncode Config.parameters u tail s) := by
  obtain ⟨-, h⟩ | ⟨hactive, h⟩ := endEncode_cases Config.parameters u tail s <;> rw [h]
  · exact .responds _
  · exact emitThen_effect (.inr rfl) hactive (.refl s)

theorem commandInstr_effect (u : UnitId) (o : Op) (w : CommandWord) {s t : State}
    (h : exec (commandInstr u o w) s = .next t) : s.CommandEffect t := by
  cases o with
  | beginEncode =>
    cases u with
    | hex => cases h; exact beginEncode_effect .hex w.sink s
    | a85 => cases h; exact beginEncode_effect .a85 w.sink s
    | flate => cases h; exact beginEncode_effect .flate w.sink s
    | rle | lzw => cases h; exact .responds _
  | encodeBlock =>
    cases u with
    | hex => cases h; exact encodeBlock_effect fun _ _ => .refl s
    | a85 => cases h; exact encodeBlock_effect a85Feed_feeds
    | flate => cases h; exact encodeBlock_effect fun _ _ => ⟨rfl, id⟩
    | rle | lzw => cases h; exact .responds _
  | endEncode =>
    cases u with
    | hex => cases h; exact endEncode_effect .hex _ s
    | a85 => cases h; exact endEncode_effect .a85 _ s
    | flate => cases h; exact endEncode_effect .flate _ s
    | rle | lzw => cases h; exact .responds _
  | decode =>
    obtain ⟨e, x, hx, hexec⟩ := decodeIsAPureFunction u w
    cases (hexec s).symm.trans h
    exact .decodes e x hx

/-- R90, R95: what the command at the port can do. -/
theorem decodeCommand_effect {w : CommandWord} {s t : State} (h : exec (decodeCommand w) s = .next t) :
    s.CommandEffect t := by
  unfold decodeCommand at h
  split at h
  · cases h; exact .responds _
  · split at h
    · exact commandInstr_effect _ _ _ h
    · cases h; exact .responds _

/-- What one step does: it changes nothing, applies `RESET`, runs a command, or makes a turn of a running decode. -/
theorem step_cases {s t : State} (h : step s = .next t) :
    (s.work.phase = .idle ∧ (t = s ∨ (∃ rest, t = resetBlock { s with port := rest }) ∨
      ∃ rest, ({ s with port := rest } : State).CommandEffect t)) ∨
    (s.work.phase ≠ .idle ∧ ((∃ w, streamNext s.work = .running w ∧ t = { s with work := w }) ∨
      ∃ e x, (e ≠ .ok → x = []) ∧ t = { s with status := e, out := x, work := .idle })) := by
  by_cases hphase : s.work.phase = .idle
  · refine .inl ⟨hphase, ?_⟩
    obtain ⟨-, hstep⟩ | ⟨rest, -, hstep⟩ | ⟨w, rest, -, hstep⟩ := step_idle hphase
    · cases hstep.symm.trans h; exact .inl rfl
    · cases hstep.symm.trans h; exact .inr (.inl ⟨rest, rfl⟩)
    · exact .inr (.inr ⟨rest, decodeCommand_effect (hstep.symm.trans h)⟩)
  · refine .inr ⟨hphase, ?_⟩
    rw [step_running hphase] at h
    obtain ⟨w, hturn, hwork⟩ | ⟨w, -, hwork⟩ | ⟨e, -, hwork⟩ := onWork_cases (streamNext ·) s <;>
      cases hwork.symm.trans h
    · exact .inl ⟨w, hturn, rfl⟩
    · exact .inr ⟨.ok, w.out, fun hne => absurd rfl hne, rfl⟩
    · exact .inr ⟨e, [], fun _ => rfl, rfl⟩

end Sys2Proof.Machine

/-! ## Every step keeps what holds of the sessions, and sinks only grow (10_state.md R47, 20_memory.md R66, R79) -/

namespace Sys2Proof.Machine

theorem session_setSession_cases (s : State) (u v : UnitId) (x : Session) :
    (s.setSession u x).session v = x ∨ (s.setSession u x).session v = s.session v := by
  cases u <;> cases v <;> first | exact .inl rfl | exact .inr rfl

theorem sinks_setSession (s : State) (u : UnitId) (x : Session) : (s.setSession u x).sinks = s.sinks := by
  cases u <;> rfl

theorem sinks_clearBuffers (s : State) (u : UnitId) (z : ZState) : (s.clearBuffers u z).sinks = s.sinks := by
  cases u <;> rfl

theorem sinks_closeSession (u : UnitId) (z : ZState) (s : State) : (closeSession u z s).sinks = s.sinks := by
  rw [closeSession, sinks_clearBuffers, sinks_setSession]

theorem State.Feeds.session {s s' : State} (h : s.Feeds s') (v : UnitId) : s'.session v = s.session v := by
  rw [h.frame]; cases v <;> rfl

theorem State.Feeds.sinks {s s' : State} (h : s.Feeds s') : s'.sinks = s.sinks := by rw [h.frame]

/-- R66: a command only appends to a sink that an active unit is bound to. -/
theorem State.CommandEffect.sinks {s t : State} (h : s.CommandEffect t) :
    t.sinks = s.sinks ∨ ∃ u x, s.active u = true ∧ t.sinks = s.sinks.append (s.sink u) x := by
  cases h with
  | responds e => exact .inl rfl
  | decodes e x hx => exact .inl rfl
  | begins u k _ _ => exact .inl ((sinks_clearBuffers _ u _).trans (sinks_setSession s u _))
  | emits u s' used x hactive hfed =>
    exact .inr ⟨u, x, hactive, congrArg (·.append (s.sink u) x) hfed.sinks⟩
  | closes u s' used x e hactive hfed =>
    refine .inr ⟨u, x, hactive, ?_⟩
    exact (sinks_closeSession u _ _).trans (congrArg (·.append (s.sink u) x) hfed.sinks)

/-- R66, R79: a step leaves the sinks alone or appends to one that an active unit is bound to. -/
theorem step_sinks {s t : State} (h : step s = .next t) :
    t.sinks = s.sinks ∨ ∃ u x, s.active u = true ∧ t.sinks = s.sinks.append (s.sink u) x := by
  obtain ⟨-, rfl | ⟨rest, rfl⟩ | ⟨rest, heffect⟩⟩ | ⟨-, ⟨w, -, rfl⟩ | ⟨e, x, -, rfl⟩⟩ := step_cases h
  · exact .inl rfl
  · exact .inl rfl
  · exact heffect.sinks
  · exact .inl rfl
  · exact .inl rfl

/-- Settles O17: a step that appends names the unit whose sink it appends to. -/
theorem sinksOnlyGrowWhereBound : Obligations.SinksOnlyGrowWhereBound := by
  intro s t hwf h k
  obtain hsame | ⟨u, x, hactive, happend⟩ := step_sinks h
  · exact ⟨[], by rw [hsame, List.append_nil], fun hne => absurd rfl hne⟩
  · by_cases hk : k = s.sink u
    · exact ⟨x, by rw [happend, hk, Memory.read_append_self _ _ _ hwf], fun _ => ⟨u, hactive, hk.symm⟩⟩
    · exact ⟨[], by rw [happend, Memory.read_append_of_ne _ hk, List.append_nil], fun hne => absurd rfl hne⟩

/-- The tuple and the count at their reset values are those of no byte held back. -/
theorem tupleCoherent_of_zero {s : State} (htuple : s.a85Tuple = 0) (hcount : s.a85Count = 0) : s.tupleCoherent := by
  refine fun _ => ⟨?_, ?_⟩ <;> rw [hcount]
  · decide
  · rw [htuple]; decide

theorem coherent_active {k : SinkId} (hk : k ≠ 0) : Session.coherent ⟨true, k⟩ := by
  simpa [Session.coherent] using hk

/-- Opening or closing a session and clearing its buffers keeps I-c of R47. -/
theorem tupleCoherent_setSession {s : State} (u : UnitId) (x : Session) (z : ZState) (h : s.tupleCoherent) :
    ((s.setSession u x).clearBuffers u z).tupleCoherent := by
  cases u with
  | a85 => exact tupleCoherent_of_zero rfl rfl
  | hex | flate | rle | lzw => exact h

theorem coherent_setSession {s : State} {u : UnitId} {x : Session} {z : ZState} (hx : x.coherent)
    (h : ∀ v, (s.session v).coherent) (v : UnitId) : (((s.setSession u x).clearBuffers u z).session v).coherent := by
  rw [session_clearBuffers]
  obtain hsession | hsession := session_setSession_cases s u v x <;> rw [hsession]
  · exact hx
  · exact h v

/-- I-a to I-c of R47, R66: what a unit takes in and appends keeps the session invariant but for the response. -/
theorem State.Feeds.afterWrites {s s' : State} {u : UnitId} (hfed : s.Feeds s') (h : s.SessionInv) (used : Nat)
    (x : Bytes) : (∀ v, ((s'.afterWrites used (s.sink u) x).session v).coherent) ∧
      (s'.afterWrites used (s.sink u) x).tupleCoherent := by
  refine ⟨fun v => ?_, hfed.tuple h.tuple⟩
  have hsame : (s'.afterWrites used (s.sink u) x).session v = s'.session v := by cases v <;> rfl
  rw [hsame, hfed.session]
  exact h.sessions v

/-- R47, R62: a command keeps I-a to I-c and the shape of the response. -/
theorem State.CommandEffect.sessions {s t : State} (h : s.CommandEffect t) (hinv : s.SessionInv) :
    (∀ v, (t.session v).coherent) ∧ t.tupleCoherent ∧ (t.status ≠ .ok → t.out = []) := by
  cases h with
  | responds e => exact ⟨hinv.sessions, hinv.tuple, fun _ => rfl⟩
  | decodes e x hx => exact ⟨hinv.sessions, hinv.tuple, hx⟩
  | begins u k _ hk =>
    exact ⟨coherent_setSession (coherent_active hk) hinv.sessions, tupleCoherent_setSession u _ _ hinv.tuple, fun _ => rfl⟩
  | emits u s' used x _ hfed =>
    obtain ⟨hsessions, htuple⟩ := hfed.afterWrites (u := u) hinv used x
    exact ⟨hsessions, htuple, fun _ => rfl⟩
  | closes u s' used x e _ hfed =>
    obtain ⟨hsessions, htuple⟩ := hfed.afterWrites (u := u) hinv used x
    exact ⟨coherent_setSession inactive_coherent hsessions, tupleCoherent_setSession u _ _ htuple, fun _ => rfl⟩

theorem step_sessions {s t : State} (hinv : s.SessionInv) (h : step s = .next t) :
    (∀ v, (t.session v).coherent) ∧ t.tupleCoherent ∧ (t.status ≠ .ok → t.out = []) := by
  obtain ⟨-, rfl | ⟨rest, rfl⟩ | ⟨rest, heffect⟩⟩ | ⟨-, ⟨w, -, rfl⟩ | ⟨e, x, hx, rfl⟩⟩ := step_cases h
  · exact ⟨hinv.sessions, hinv.tuple, hinv.response⟩
  · exact ⟨fun v => by cases v <;> exact inactive_coherent, tupleCoherent_of_zero rfl rfl, fun _ => rfl⟩
  · exact heffect.sessions ⟨hinv.sessions, hinv.tuple, hinv.memory, hinv.nullSink, hinv.response⟩
  · exact ⟨hinv.sessions, hinv.tuple, hinv.response⟩
  · exact ⟨hinv.sessions, hinv.tuple, hx⟩

/-- Settles O13: a step appends only to the sink of an active unit, which is not the null sink. -/
theorem stepKeepsSessionInvariants : Obligations.StepKeepsSessionInvariants := by
  intro s t hinv h
  obtain ⟨hsessions, htuple, hresponse⟩ := step_sessions hinv h
  refine ⟨hsessions, htuple, ?_, ?_, hresponse⟩ <;>
    obtain hsame | ⟨u, x, hactive, happend⟩ := step_sinks h
  · rw [hsame]; exact hinv.memory
  · rw [happend]; exact Memory.wf_append _ _ _ hinv.memory
  · rw [hsame]; exact hinv.nullSink
  · have hbound : s.sink u ≠ 0 := (hinv.sessions u).mp hactive
    rw [happend, Memory.read_append_of_ne _ hbound.symm, hinv.nullSink]

end Sys2Proof.Machine

/-! ## Every step keeps what holds of the transient registers (10_state.md R29 to R42, 47_zlib_deflate_reference.md R298 to R305) -/

namespace Sys2Proof.Machine

/-- A turn outside the rows that changes neither the parameter registers nor `PARAMS` keeps the invariant, if it keeps
that of its own registers. -/
theorem Work.Inv.of_turn {w w' : Work} (h : w.Inv) (hrows : w.phase ≠ .png) (hrows' : w'.phase ≠ .png)
    (hbusy : w'.phase ≠ .idle) (hcursor : w'.cursorInRange) (hgroup : w'.GroupInv) (hlzw : w'.lzw.Inv)
    (hinflate : w'.InflateInv) (hpred : w'.pred = w.pred) (hparams : w'.params = w.params) : w'.Inv where
  idle hidle := absurd hidle hbusy
  cursor := hcursor
  group := hgroup
  lzw := hlzw
  inflate := hinflate
  predictor := ⟨fun hpng => absurd hpng hrows', fun _ => by rw [hpred]; exact h.predictor.fresh hrows⟩
  params := by rw [hpred, hparams]; exact h.params

/-- A turn of inflate has no other cursor than its own. -/
theorem Work.Inv.of_inDeflate {w w' : Work} (h : w.Inv) (hrows : w.phase ≠ .png) (hin : w'.phase.inDeflate = true)
    (hinflate : w'.InflateInv) (hframe : ∃ phase inf, w' = { w with phase := phase, inf := inf }) : w'.Inv := by
  obtain ⟨phase, inf, rfl⟩ := hframe
  refine h.of_turn hrows ?_ ?_ ?_ h.group h.lzw hinflate rfl rfl
  · rintro rfl; cases hin
  · rintro rfl; cases hin
  · cases phase with
    | blockHeader | codeLengths | data | distance | trailer => trivial
    | idle | hex | a85 | a85End | rle | lzw | zlibHeader | predictor | png => cases hin

/-- R36, R37: a value of the parameter record has the width of the port, and so has the default. -/
theorem fitsWidth_getParam {o : Option Int} {d : Int} (ho : o.all (fitsWidth Config.paramWidth) = true)
    (hd : fitsWidth Config.paramWidth d = true) : fitsWidth Config.paramWidth (getParam o d) = true := by
  cases o with
  | none => exact hd
  | some v => exact ho

theorem fits_loadParams {q : Params} (h : q.fits = true) (w : Work) : (loadParams q w).pred.fits := by
  simp only [Params.fits, Config.stream, Bool.and_eq_true] at h
  obtain ⟨⟨⟨⟨hpredictor, hcolors⟩, hbpc⟩, hcolumns⟩, hearly⟩ := h
  simp only [PredictorRegs.fits, loadParams, List.forall_mem_cons, List.not_mem_nil, false_implies, implies_true,
    and_true]
  exact ⟨fitsWidth_getParam hpredictor (by decide), fitsWidth_getParam hcolors (by decide),
    fitsWidth_getParam hbpc (by decide), fitsWidth_getParam hcolumns (by decide), fitsWidth_getParam hearly (by decide)⟩

theorem one_le_rowWidth {columns bpc : Int} (hcolumns : 1 ≤ columns) (hbpc : 1 ≤ bpc) : 1 ≤ rowWidth columns bpc := by
  have hbits : 1 ≤ columns.toNat * bpc.toNat := Nat.mul_pos (by omega) (by omega)
  unfold rowWidth
  omega

/-- R216, R222, R223: a row keeps the invariant of predictor reversal. -/
theorem Work.Inv.of_pngRow {w w' : Work} {t : Byte} {f : RowFilter} (h : w.Inv) (hphase : w.phase = .png)
    (hread : w.inf.infl[w.ip]? = some t) (hlegal : t.toNat ≤ 4)
    (hrow : pngRow t f { w with ip := w.ip + 1 } = .running w') : w'.Inv := by
  obtain ⟨hwidth, hprev, -, -, -⟩ := h.predictor.rows hphase
  have hlt : w.ip < w.inf.infl.length := (List.getElem?_eq_some_iff.mp hread).1
  cases hrow
  refine ⟨fun hidle => ?_, ?_, h.group, h.lzw, inflateInv_of_phase (by simp [hphase]) (by simp [hphase]),
    ⟨fun _ => ⟨hwidth, ?_, ?_, ?_, hlegal⟩, fun hne => absurd hphase hne⟩, h.params⟩
  · cases hphase.symm.trans hidle
  · simp only [Work.cursorInRange, hphase, List.length_take, List.length_drop]
    omega
  · simp only [List.length_append, List.length_drop, length_reconstruct, List.length_take]
    omega
  · simp only [length_reconstruct, List.length_take]
    omega
  · simp only [List.length_take]
    omega

/-- A turn of a running decode that goes on keeps the invariant of the transient registers. -/
theorem streamNext_inv {w w' : Work} (hinv : w.Inv) (h : streamNext w = .running w') : w'.Inv := by
  obtain ⟨hbusy, hinflate⟩ := streamNext_inflateInv hinv.inflate h
  cases hphase : w.phase with
  | idle => simp only [streamNext, fetch, hphase] at h; cases h
  | hex =>
    obtain ⟨hlt, hi, out, rfl⟩ := streamNext_running_hex hphase h
    refine hinv.of_turn (by simp [hphase]) (by simp [hphase]) hbusy ?_ hinv.group hinv.lzw hinflate rfl rfl
    simp only [Work.cursorInRange, hphase]; omega
  | a85 =>
    obtain ⟨hlt, hgroup, ⟨acc, n, out, rfl⟩ | ⟨hlt', rfl⟩⟩ := streamNext_running_a85 hphase h
    · refine hinv.of_turn (by simp [hphase]) (by simp [hphase]) hbusy ?_ (hgroup hinv.group) hinv.lzw hinflate rfl rfl
      simp only [Work.cursorInRange, hphase]; omega
    · refine hinv.of_turn (by simp [hphase]) (by simp) hbusy ?_ (hgroup hinv.group) hinv.lzw hinflate rfl rfl
      simp only [Work.cursorInRange]; omega
  | a85End => exact absurd h (streamNext_not_running_a85End hphase)
  | rle =>
    obtain ⟨ip, out, rfl, hlt, hle, -⟩ := streamNext_running_rle hphase h
    refine hinv.of_turn (by simp [hphase]) (by simp [hphase]) hbusy ?_ hinv.group hinv.lzw hinflate rfl rfl
    simp only [Work.cursorInRange, hphase]; exact hle
  | lzw =>
    obtain ⟨hle, hturn, out, hframe⟩ := streamNext_running_lzw hphase h
    have hphase' : w'.phase = .lzw := by rw [hframe]; exact hphase
    have hgroup : w'.GroupInv := by rw [hframe]; exact hinv.group
    refine hinv.of_turn (by simp [hphase]) (by simp [hphase']) hbusy ?_ hgroup (hturn.inv hinv.lzw) hinflate ?_ ?_
    · simp only [Work.cursorInRange, hphase', hturn.bp]
      rw [hframe]; exact hle
    · rw [hframe]
    · rw [hframe]
  | zlibHeader =>
    rw [streamNext_running_zlibHeader hphase h] at hinflate ⊢
    exact hinv.of_inDeflate (by simp [hphase]) rfl hinflate ⟨_, _, rfl⟩
  | blockHeader =>
    have hturn := streamNext_running_blockHeader hphase h
    exact hinv.of_inDeflate (by simp [hphase]) hturn.phase hinflate hturn.frame
  | codeLengths =>
    have hturn := streamNext_running_codeLengths hphase hinv.inflate h
    exact hinv.of_inDeflate (by simp [hphase]) hturn.phase hinflate hturn.frame
  | data =>
    have hturn := streamNext_running_data hphase h
    exact hinv.of_inDeflate (by simp [hphase]) hturn.phase hinflate hturn.frame
  | distance =>
    have hturn := streamNext_running_distance hphase h
    exact hinv.of_inDeflate (by simp [hphase]) hturn.phase hinflate hturn.frame
  | trailer =>
    obtain ⟨q, hq, rfl⟩ := streamNext_running_trailer hphase h
    obtain ⟨hfits, -⟩ := hinv.params
    refine ⟨fun hidle => absurd hidle hbusy, trivial, hinv.group, hinv.lzw, hinflate, ⟨fun hrows => (by cases hrows),
      fun _ => hinv.predictor.fresh (hphase ▸ Phase.noConfusion)⟩, hfits, fits_loadParams (hfits q hq) _⟩
  | predictor =>
    obtain ⟨hcolumns, hbpc, rfl⟩ := streamNext_running_predictor hphase h
    obtain ⟨hcur, hcol, htag⟩ := hinv.predictor.fresh (by simp [hphase])
    refine ⟨fun hidle => absurd hidle hbusy, Nat.zero_le _, hinv.group, hinv.lzw, hinflate,
      ⟨fun _ => ⟨one_le_rowWidth hcolumns hbpc, Nat.zero_le _, ?_, ?_, ?_⟩, fun hne => absurd rfl hne⟩, hinv.params⟩
    · simp [hcur]
    · simp [hcol]
    · simp [htag]
  | png =>
    obtain ⟨t, hread, hlegal, hrow⟩ := streamNext_running_png hphase h
    exact hinv.of_pngRow hphase hread hlegal hrow

theorem State.Feeds.work {s s' : State} (h : s.Feeds s') : s'.work = s.work := by rw [h.frame]

/-- A command leaves the transient registers as they were, or idle. -/
theorem State.CommandEffect.work {s t : State} (h : s.CommandEffect t) : t.work = s.work ∨ t.work = .idle := by
  cases h with
  | responds e => exact .inl rfl
  | decodes e x hx => exact .inr rfl
  | begins u k _ _ => cases u <;> exact .inl rfl
  | emits u s' used x _ hfed => exact .inl hfed.work
  | closes u s' used x e _ hfed => cases u <;> exact .inl hfed.work

/-- Settles O14: between commands the registers are idle, and each turn of a decode keeps its invariant. -/
theorem stepKeepsTransientInvariants : Obligations.StepKeepsTransientInvariants := by
  intro s t hinv h
  obtain ⟨-, rfl | ⟨rest, rfl⟩ | ⟨rest, heffect⟩⟩ | ⟨-, ⟨w, hturn, rfl⟩ | ⟨e, x, -, rfl⟩⟩ := step_cases h
  · exact hinv
  · exact work_idle_inv
  · obtain hsame | hidle := heffect.work
    · rw [hsame]; exact hinv
    · rw [hidle]; exact work_idle_inv
  · exact streamNext_inv hinv hturn
  · exact work_idle_inv

end Sys2Proof.Machine

/-! ## A decode command has the result that its loop runs to -/

namespace Sys2Proof.Machine

theorem exec_hexDecode_of_runs {bs : Bytes} {p : Option Params} {r : Progress} (h : (hexStart bs p).Runs r) (s : State) :
    exec (.hexDecode (some bs) p) s = deliver r s :=
  congrArg (deliver · s) ((runs_hexRun bs p).unique h)

theorem exec_a85Decode_of_runs {bs : Bytes} {p : Option Params} {r : Progress} (h : (a85Start bs p).Runs r) (s : State) :
    exec (.a85Decode (some bs) p) s = deliver r s :=
  congrArg (deliver · s) ((runs_a85Run bs p).unique h)

theorem exec_rleDecode_of_runs {bs : Bytes} {p : Option Params} {r : Progress} (h : (rleStart bs p).Runs r) (s : State) :
    exec (.rleDecode (some bs) p) s = deliver r s :=
  congrArg (deliver · s) ((runs_rleRun bs p).unique h)

theorem exec_lzwDecode_of_runs {bs : Bytes} {p : Option Params} {r : Progress} (h : (lzwStart bs p).Runs r) (s : State) :
    exec (.lzwDecode (some bs) p) s = deliver r s :=
  congrArg (deliver · s) ((runs_lzwRun bs p).unique h)

theorem exec_flateDecode_of_runs {bs : Bytes} {p : Option Params} {r : Progress} (h : (flateStart bs p).Runs r)
    (s : State) : exec (.flateDecode (some bs) p) s = deliver r s := by
  obtain ⟨r', h', hresult⟩ := runs_flateStart bs p
  rw [h.unique h', exec_flateDecode]
  exact deliver_eq_of_result (flateRun_ne_running bs p) (fun w => h'.ne_running) hresult.symm s

end Sys2Proof.Machine

/-! ## RLE: streams of whole records, and the expansion bound (44_rle.md R242 to R248) -/

namespace Sys2Proof.Machine

theorem runs_rleRecords {records : List RleRecord} (rest : Bytes) {r : Progress} : ∀ {w : Work}, w.phase = .rle →
    records.all RleRecord.wf = true → w.input.drop w.ip = records.flatMap RleRecord.encoded ++ rest →
    (w.pastRleRecords records).Runs r → w.Runs r := by
  induction records with
  | nil => intro w _ _ _ h; rwa [Work.pastRleRecords_nil] at h
  | cons record records ih =>
    intro w hphase hwf hread h
    rw [List.all_cons, Bool.and_eq_true] at hwf
    obtain ⟨hrecord, hrecords⟩ := hwf
    rw [List.flatMap_cons, List.append_assoc] at hread
    have hnext : (w.pastRleRecords [record]).input.drop (w.pastRleRecords [record]).ip =
        records.flatMap RleRecord.encoded ++ rest :=
      Work.drop_pastRleRecords (by rw [hread, List.flatMap_singleton])
    rw [Work.pastRleRecords_cons] at h
    exact .running (streamNext_rleRecord hphase hrecord hread) (ih hphase hrecords hnext h)

/-- R242, R245: the end of the input and the end marker end the stream with its output. -/
theorem streamNext_rleEnd {w : Work} {rest junk : Bytes} (hphase : w.phase = .rle) (hread : w.input.drop w.ip = rest)
    (hrest : rest = [] ∨ rest = 0x80 :: junk) : ∃ w', streamNext w = .done w' ∧ w'.out = w.out := by
  obtain rfl | rfl := hrest
  · exact ⟨w, streamNext_rleInputEnd hphase (List.getElem?_eq_none (List.drop_eq_nil_iff.mp hread)), rfl⟩
  · refine ⟨{ w with ip := w.ip + 1 }, ?_, rfl⟩
    rw [streamNext_rleControl hphase (getElem?_and_drop_of_drop_eq_cons hread).1]
    rfl

/-- Settles O40: a turn for each record, and one for what ends the stream. -/
theorem rleDecodeOfRecords : Obligations.RleDecodeOfRecords := by
  intro records rest junk p s hwf hrest
  have hdrop : ((rleStart (records.flatMap RleRecord.encoded ++ rest) p).pastRleRecords records).input.drop
      ((rleStart (records.flatMap RleRecord.encoded ++ rest) p).pastRleRecords records).ip = rest :=
    Work.drop_pastRleRecords rfl
  obtain ⟨w', hend, hout⟩ := streamNext_rleEnd rfl hdrop hrest
  rw [exec_rleDecode_of_runs (runs_rleRecords rest rfl hwf rfl (.done hend)), deliver_done, hout]
  rfl

/-- R245: a turn of RLE that ends the stream delivers the output so far. -/
theorem streamNext_done_rle {w w' : Work} (hphase : w.phase = .rle) (h : streamNext w = .done w') : w'.out = w.out := by
  cases hread : w.input[w.ip]? with
  | none => rw [streamNext_rleInputEnd hphase hread] at h; cases h; rfl
  | some c =>
    rw [streamNext_rleControl hphase hread, decodeRleControl] at h
    repeat' split at h
    · simp only [runSymbol, rleLiteral] at h
      split at h <;> cases h
    · cases h; rfl
    · simp only [runSymbol, rleReplicate] at h
      split at h <;> cases h

/-- R248: 64 bytes of output for each byte of input, along a run. -/
theorem Work.Runs.rle_length_le {w : Work} {r : Progress} (h : w.Runs r) : w.phase = .rle → w.ip ≤ w.input.length →
    w.out.length ≤ 64 * w.ip → r.result.2.length ≤ 64 * w.input.length := by
  induction h with
  | @done w w' hturn =>
    intro hphase hip hout
    have hsame := streamNext_done_rle hphase hturn
    simp only [Progress.result, hsame]
    omega
  | raised _ => exact fun _ _ _ => Nat.zero_le _
  | @running w w' r hturn _ ih =>
    intro hphase _ hout
    obtain ⟨ip, out, rfl, hlt, hle, hgrowth⟩ := streamNext_running_rle hphase hturn
    refine ih hphase hle ?_
    rw [List.length_append]
    dsimp only
    omega

/-- Settles O42: the bound is kept by every turn; the first turn ends an empty stream. -/
theorem rleExpansionBound : Obligations.RleExpansionBound := by
  intro bs p s t h
  rw [exec_rleDecode_of_runs (runs_rleRun bs p), deliver_of_ne_running fun w => (runs_rleRun bs p).ne_running] at h
  cases h
  refine ⟨(runs_rleRun bs p).rle_length_le rfl (Nat.zero_le _) (Nat.zero_le _), ?_⟩
  rintro rfl
  exact ⟨rfl, rfl⟩

end Sys2Proof.Machine

/-! ## HEX: the result of a decode (40_hex.md R134 to R140) -/

namespace Sys2Proof.Machine

/-- R96, R97: the class of a hex digit carries its value. -/
theorem decodeHexChar_digit : ∀ c : Byte, isHexDigit c = true → Config.wsHex.contains c = false ∧
    (decodeHexChar c = .hexDigit09 (BitVec.ofNat 4 (hexValue c)) ∨
      ∃ v : BitVec 3, BitVec.ofNat 4 (v.toNat + 9) = BitVec.ofNat 4 (hexValue c) ∧
        (decodeHexChar c = .hexDigitUpper v ∨ decodeHexChar c = .hexDigitLower v)) := by
  decide

/-- R137: a digit gives its nibble. -/
theorem runSymbol_hexDigit {c : Byte} (h : isHexDigit c = true) (w : Work) :
    runSymbol (decodeHexChar c) w = hexNibble (BitVec.ofNat 4 (hexValue c)) w := by
  obtain ⟨-, hclass | ⟨v, hv, hclass | hclass⟩⟩ := decodeHexChar_digit c h
  · rw [hclass]; rfl
  · rw [hclass, ← hv]; rfl
  · rw [hclass, ← hv]; rfl

theorem hexValue_lt : ∀ c : Byte, isHexDigit c = true → hexValue c < 16 := by decide

/-- The digit that waits for its pair, as the character it was read from (R134). -/
def Work.Pends (w : Work) (pending : Bytes) : Prop :=
  w.hi = none ∧ pending = [] ∨
    ∃ c, isHexDigit c = true ∧ w.hi = some (BitVec.ofNat 4 (hexValue c)) ∧ pending = [c]

/-- R139, R140: what digits, and any other characters, decode to after the output `out`. -/
def hexResult (out digits : Bytes) : Status × Bytes :=
  if digits.all isHexDigit = true ∧ digits.length % 2 = 0 then (.ok, out ++ hexBytes digits) else (.valueOutOfRange, [])

theorem hexResult_of_illegal {out digits : Bytes} {c : Byte} (hmem : c ∈ digits) (hc : isHexDigit c = false) :
    hexResult out digits = (.valueOutOfRange, []) := by
  refine if_neg fun ⟨hall, _⟩ => ?_
  rw [List.all_eq_true.mp hall c hmem] at hc
  cases hc

/-- R97: a pair of digits is a byte. -/
theorem hexResult_pair {h l : Byte} (hh : isHexDigit h = true) (hl : isHexDigit l = true) (out digits : Bytes) :
    hexResult out (h :: l :: digits) =
      hexResult (out ++ [BitVec.ofNat 4 (hexValue h) ++ BitVec.ofNat 4 (hexValue l)]) digits := by
  have hbyte : BitVec.ofNat 4 (hexValue h) ++ BitVec.ofNat 4 (hexValue l) =
      BitVec.ofNat 8 (16 * hexValue h + hexValue l) := by
    rw [append_nibbles, BitVec.toNat_ofNat, BitVec.toNat_ofNat, Nat.mod_eq_of_lt (hexValue_lt h hh),
      Nat.mod_eq_of_lt (hexValue_lt l hl)]
  have hparity : (digits.length + 1 + 1) % 2 = digits.length % 2 := by omega
  simp only [hexResult, List.all_cons, hh, hl, Bool.true_and, List.length_cons, hparity, hexBytes, hbyte,
    List.append_assoc, List.singleton_append]

/-- R139: at the end of the input a digit that waits for its pair is a fault. -/
theorem runs_hexEnd {w : Work} {pending : Bytes} (hphase : w.phase = .hex) (hread : w.input[w.ip]? = none)
    (hpends : w.Pends pending) : ∃ r, w.Runs r ∧ r.result = hexResult w.out pending := by
  have hturn := streamNext_hexInputEnd hphase hread
  obtain ⟨hhi, rfl⟩ | ⟨c, hdigit, hhi, rfl⟩ := hpends
  · refine ⟨.done w, .done (hturn.trans (by simp only [hexEndOfInput, hhi])), ?_⟩
    simp [Progress.result, hexResult, hexBytes]
  · refine ⟨.raised .valueOutOfRange, .raised (hturn.trans (by simp only [hexEndOfInput, hhi])), ?_⟩
    simp [Progress.result, hexResult]

/-- R134, R136 to R139: the loop over what is left of a hex stream. -/
theorem runs_hex (rest : Bytes) : ∀ {w : Work} {pending : Bytes}, w.phase = .hex → w.input.drop w.ip = rest →
    w.Pends pending → ∃ r, w.Runs r ∧ r.result = hexResult w.out (pending ++ hexSignificant rest) := by
  induction rest with
  | nil =>
    intro w pending hphase hread hpends
    rw [hexSignificant, List.filter_nil, List.append_nil]
    exact runs_hexEnd hphase (List.getElem?_eq_none (List.drop_eq_nil_iff.mp hread)) hpends
  | cons c rest ih =>
    intro w pending hphase hread hpends
    obtain ⟨hc, hrest⟩ := getElem?_and_drop_of_drop_eq_cons hread
    have hturn := streamNext_hexByte hphase hc
    cases hws : Config.wsHex.contains c with
    | true =>
      have hskip : streamNext w = .running { w with ip := w.ip + 1 } := by
        rw [hturn, decodeHexChar]
        exact congrArg (runSymbol · _) (if_pos hws)
      obtain ⟨r, hrun, hresult⟩ := ih (w := { w with ip := w.ip + 1 }) hphase hrest hpends
      have hsame : hexSignificant (c :: rest) = hexSignificant rest :=
        List.filter_cons_of_neg (by rw [hws]; decide)
      exact ⟨r, .running hskip hrun, hsame ▸ hresult⟩
    | false =>
      have hkept : hexSignificant (c :: rest) = c :: hexSignificant rest :=
        List.filter_cons_of_pos (by rw [hws]; decide)
      rw [hkept]
      cases hdigit : isHexDigit c with
      | false =>
        refine ⟨.raised .valueOutOfRange, .raised ?_, (hexResult_of_illegal (by simp) hdigit).symm⟩
        rw [hturn, decodeHexChar_illegal hws hdigit]
        rfl
      | true =>
        rw [runSymbol_hexDigit hdigit, hexNibble] at hturn
        obtain ⟨hhi, rfl⟩ | ⟨h, hh, hhi, rfl⟩ := hpends
        · simp only [hhi] at hturn
          obtain ⟨r, hrun, hresult⟩ := ih (w := { w with ip := w.ip + 1, hi := some _ }) hphase hrest
            (.inr ⟨c, hdigit, rfl, rfl⟩)
          exact ⟨r, .running hturn hrun, hresult⟩
        · simp only [hhi] at hturn
          obtain ⟨r, hrun, hresult⟩ := ih (w := { w with ip := w.ip + 1, hi := none, out := w.out ++ [_] }) hphase hrest
            (.inl ⟨rfl, rfl⟩)
          refine ⟨r, .running hturn hrun, hresult.trans ?_⟩
          exact (hexResult_pair hh hdigit w.out (hexSignificant rest)).symm

/-- Settles O36: the loop from the first byte, with no digit waiting. -/
theorem hexDecodeResult : Obligations.HexDecodeResult := by
  intro bs p s
  obtain ⟨r, hrun, hresult⟩ := runs_hex bs (w := hexStart bs p) (pending := []) rfl rfl (.inl ⟨rfl, rfl⟩)
  rw [exec_hexDecode_of_runs hrun, deliver_of_ne_running fun w => hrun.ne_running, hresult, List.nil_append, hexResult]
  (repeat' split) <;> rfl

end Sys2Proof.Machine

/-! ## A85: what the loop makes of the bytes that are left (41_ascii85.md R160 to R168) -/

namespace Sys2Proof.Machine

/-- The result of the decode loop on the bytes that are left, which are all that it looks at of the input (R160). -/
def a85Result : Bytes → Work → Status × Bytes
  | [], w => (a85EndOfData w).result
  | c :: rest, w =>
    if c = 0x7E then
      if rest.head? = some 0x3E then (a85EndOfData w).result else (.valueOutOfRange, [])
    else
      match runSymbol (decodeA85Char c) w with
      | .running w' => a85Result rest w'
      | .done w' => (.ok, w'.out)
      | .raised e => (e, [])

/-- The registers with the cursor elsewhere, in another input and phase. -/
def Work.moved (w : Work) (phase : Phase) (input : Bytes) (ip : Nat) : Work :=
  { w with phase := phase, input := input, ip := ip }

/-- A turn's registers with the cursor elsewhere. -/
def Progress.moved (phase : Phase) (input : Bytes) (ip : Nat) : Progress → Progress
  | .running w => .running (w.moved phase input ip)
  | .done w => .done (w.moved phase input ip)
  | .raised e => .raised e

theorem Progress.result_moved (phase : Phase) (input : Bytes) (ip : Nat) (r : Progress) :
    (r.moved phase input ip).result = r.result := by
  cases r <;> rfl

/-- R162 to R164, R167, R168: only the terminator looks at the input. -/
theorem a85Digit_moved (c : Byte) (w : Work) (phase : Phase) (input : Bytes) (ip : Nat) :
    a85Digit c (w.moved phase input ip) = (a85Digit c w).moved phase input ip := by
  unfold a85Digit Work.moved
  dsimp only
  (repeat' split) <;> rfl

theorem a85Z_moved (w : Work) (phase : Phase) (input : Bytes) (ip : Nat) :
    a85Z (w.moved phase input ip) = (a85Z w).moved phase input ip := by
  unfold a85Z Work.moved
  dsimp only
  (repeat' split) <;> rfl

theorem a85EndOfData_moved (w : Work) (phase : Phase) (input : Bytes) (ip : Nat) :
    a85EndOfData (w.moved phase input ip) = (a85EndOfData w).moved phase input ip := by
  unfold a85EndOfData Work.moved
  dsimp only
  (repeat' split) <;> rfl

theorem runSymbol_a85Char_moved {c : Byte} (hc : c ≠ 0x7E) (w : Work) (phase : Phase) (input : Bytes) (ip : Nat) :
    runSymbol (decodeA85Char c) (w.moved phase input ip) = (runSymbol (decodeA85Char c) w).moved phase input ip := by
  unfold decodeA85Char
  repeat' split
  · rfl
  · exact a85Digit_moved c w phase input ip
  · exact a85Z_moved w phase input ip
  · rfl

theorem a85Result_moved (rest : Bytes) : ∀ (w : Work) (phase : Phase) (input : Bytes) (ip : Nat),
    a85Result rest (w.moved phase input ip) = a85Result rest w := by
  induction rest with
  | nil => intro w phase input ip; rw [a85Result, a85Result, a85EndOfData_moved, Progress.result_moved]
  | cons c rest ih =>
    intro w phase input ip
    by_cases hend : c = 0x7E
    · simp only [a85Result, if_pos hend, a85EndOfData_moved, Progress.result_moved]
    · simp only [a85Result, if_neg hend, runSymbol_a85Char_moved hend]
      cases runSymbol (decodeA85Char c) w with
      | running w' => exact ih w' phase input ip
      | done w' | raised e => rfl

theorem runs_a85EndOfData {w : Work} {r : Progress} (hturn : streamNext w = r) (hr : r = a85EndOfData w) :
    ∃ r', w.Runs r' ∧ r'.result = (a85EndOfData w).result := by
  subst hr
  cases hend : a85EndOfData w with
  | running w' => exact absurd hend a85EndOfData_ne_running
  | done w' => exact ⟨_, .done (hturn.trans hend), rfl⟩
  | raised e => exact ⟨_, .raised (hturn.trans hend), rfl⟩

/-- R160: the loop has the result that the bytes left give. -/
theorem runs_a85Result (rest : Bytes) : ∀ {w : Work}, w.phase = .a85 → w.input.drop w.ip = rest →
    ∃ r, w.Runs r ∧ r.result = a85Result rest w := by
  induction rest with
  | nil =>
    intro w hphase hread
    exact runs_a85EndOfData (streamNext_a85InputEnd hphase (List.getElem?_eq_none (List.drop_eq_nil_iff.mp hread))) rfl
  | cons c rest ih =>
    intro w hphase hread
    obtain ⟨hc, hrest⟩ := getElem?_and_drop_of_drop_eq_cons hread
    have hturn := streamNext_a85Byte hphase hc
    by_cases hend : c = 0x7E
    · have hnext : w.input[w.ip + 1]? = rest.head? := by rw [← hrest, List.head?_drop]
      subst hend
      simp only [a85Result, if_true]
      by_cases hgt : rest.head? = some 0x3E
      · have hmove : streamNext w = .running (w.moved .a85End w.input (w.ip + 2)) :=
          hturn.trans (if_pos (hnext.trans hgt))
        obtain ⟨r, hrun, hresult⟩ := runs_a85EndOfData (w := w.moved .a85End w.input (w.ip + 2))
          (streamNext_a85End rfl) rfl
        refine ⟨r, .running hmove hrun, ?_⟩
        rw [hresult, a85EndOfData_moved, Progress.result_moved, if_pos hgt]
      · exact ⟨_, .raised (hturn.trans (if_neg (hnext.symm ▸ hgt))), by rw [if_neg hgt]; rfl⟩
    · have hmoved : streamNext w = (runSymbol (decodeA85Char c) w).moved .a85 w.input (w.ip + 1) := by
        rw [hturn, ← runSymbol_a85Char_moved hend, Work.moved, ← hphase]
      simp only [a85Result, if_neg hend]
      cases hrun : runSymbol (decodeA85Char c) w with
      | running w' =>
        rw [hrun] at hmoved
        obtain ⟨r, hr, hresult⟩ := ih (w := w'.moved .a85 w.input (w.ip + 1)) rfl hrest
        exact ⟨r, .running hmoved hr, hresult.trans (a85Result_moved rest w' _ _ _)⟩
      | done w' => rw [hrun] at hmoved; exact ⟨_, .done hmoved, rfl⟩
      | raised e => rw [hrun] at hmoved; exact ⟨_, .raised hmoved, rfl⟩

/-- The registers of an Ascii85 stream that has not begun, but for the input. -/
def a85Fresh (p : Option Params) : Work := { Work.idle with params := p }

theorem exec_a85Decode (bs : Bytes) (p : Option Params) (s : State) :
    exec (.a85Decode (some bs) p) s = .next { s with
      status := (a85Result bs (a85Fresh p)).1, out := (a85Result bs (a85Fresh p)).2, work := .idle } := by
  obtain ⟨r, hrun, hresult⟩ := runs_a85Result bs (w := a85Start bs p) rfl rfl
  have hstart : a85Result bs (a85Start bs p) = a85Result bs (a85Fresh p) := a85Result_moved bs (a85Fresh p) .a85 bs 0
  rw [exec_a85Decode_of_runs hrun, deliver_of_ne_running fun w => hrun.ne_running, hresult, hstart]

/-- R162: a skip byte that does not come directly after '~' is as if it were not there. -/
theorem a85Result_skip {c : Byte} (hc : Config.wsA85 c = true) (b : Bytes) : ∀ (a : Bytes) (w : Work),
    a.getLast? ≠ some 0x7E → a85Result (a ++ c :: b) w = a85Result (a ++ b) w
  | [], w, _ => by
    have hne : c ≠ 0x7E := by rintro rfl; cases hc
    simp only [List.nil_append, a85Result, if_neg hne, decodeA85Char_skip hc]
    rfl
  | [x], w, hlast => by
    have hx : x ≠ 0x7E := by rintro rfl; exact hlast rfl
    have hrest := a85Result_skip hc b []
    simp only [List.nil_append] at hrest
    simp only [List.cons_append, List.nil_append, a85Result, if_neg hx]
    cases runSymbol (decodeA85Char x) w with
    | running w' => exact hrest w' (by simp)
    | done w' | raised e => rfl
  | x :: y :: a, w, hlast => by
    have hrest := fun w' => a85Result_skip hc b (y :: a) w' (by rwa [List.getLast?_cons_cons] at hlast)
    simp only [List.cons_append] at hrest ⊢
    by_cases hx : x = 0x7E
    · simp only [a85Result, if_pos hx, List.head?_cons]
      rfl
    · rw [a85Result, a85Result, if_neg hx, if_neg hx]
      cases runSymbol (decodeA85Char x) w with
      | running w' => exact hrest w'
      | done w' | raised e => rfl

/-- Settles O38: by the result of the loop on the bytes. -/
theorem a85SkipsAnywhere : Obligations.A85SkipsAnywhere := by
  intro a b c p s hskip hlast
  rw [exec_a85Decode, exec_a85Decode, a85Result_skip hskip b a _ hlast]

/-! ### The text that A85 writes decodes to its bytes (41_ascii85.md R163, R164, R168, R171) -/

/-- The character of a digit (R150): it is of the digit class, and carries its value. -/
theorem a85DigitChar {d : Nat} (hd : d < 85) : (BitVec.ofNat 8 (d + 33)).toNat = d + 33 ∧
    decodeA85Char (BitVec.ofNat 8 (d + 33)) = .a85Digit (BitVec.ofNat 8 (d + 33)) ∧
    BitVec.ofNat 8 (d + 33) ≠ 0x7E := by
  have hvalue : (BitVec.ofNat 8 (d + 33)).toNat = d + 33 := by rw [BitVec.toNat_ofNat]; omega
  refine ⟨hvalue, decodeA85Char_digit ?_, fun h => ?_⟩
  · simp only [isA85Digit, hvalue, Bool.and_eq_true, decide_eq_true_eq]; omega
  · have hcode : d + 33 = 126 := hvalue.symm.trans (congrArg BitVec.toNat h)
    omega

/-- R163: a digit that does not complete its group. -/
theorem a85Result_digit {d : Nat} (hd : d < 85) (rest : Bytes) {w : Work} (hn : w.n < 4) :
    a85Result (BitVec.ofNat 8 (d + 33) :: rest) w =
      a85Result rest { w with acc := w.acc + d * 85 ^ (4 - w.n), n := w.n + 1 } := by
  obtain ⟨hvalue, hclass, hne⟩ := a85DigitChar hd
  have hrun : runSymbol (.a85Digit (BitVec.ofNat 8 (d + 33))) w =
      .running { w with acc := w.acc + d * 85 ^ (4 - w.n), n := w.n + 1 } := by
    simp only [runSymbol, a85Digit, hvalue, w85_eq w.n (by omega), Nat.add_sub_cancel]
    exact if_neg (by omega)
  simp only [a85Result, if_neg hne, hclass, hrun]

/-- R163: the fifth digit of a group whose number fits. -/
theorem a85Result_lastDigit {d : Nat} (hd : d < 85) (rest : Bytes) {w : Work} (hn : w.n = 4)
    (hfits : w.acc + d < 2 ^ 32) :
    a85Result (BitVec.ofNat 8 (d + 33) :: rest) w =
      a85Result rest { w with acc := 0, n := 0, out := w.out ++ unpack32 (w.acc + d) } := by
  obtain ⟨hvalue, hclass, hne⟩ := a85DigitChar hd
  have hrun : runSymbol (.a85Digit (BitVec.ofNat 8 (d + 33))) w =
      .running { w with acc := 0, n := 0, out := w.out ++ unpack32 (w.acc + d) } := by
    have hweight : Config.w85 w.n = 1 := by rw [hn]; rfl
    simp only [runSymbol, a85Digit, hvalue, hweight, Nat.mul_one, Nat.add_sub_cancel]
    rw [if_pos (by omega), if_neg (by omega)]
  simp only [a85Result, if_neg hne, hclass, hrun]

/-- R164: between groups a 'z' gives four zeros. -/
theorem a85Result_z (rest : Bytes) {w : Work} (hn : w.n = 0) :
    a85Result (0x7A :: rest) w = a85Result rest { w with out := w.out ++ [0, 0, 0, 0] } := by
  have hrun : runSymbol (decodeA85Char 0x7A) w = .running { w with out := w.out ++ [0, 0, 0, 0] } :=
    if_neg fun hne => hne hn
  rw [a85Result, if_neg (by decide), hrun]

/-- No group is open (R160). -/
def Work.BetweenGroups (w : Work) : Prop := w.n = 0 ∧ w.acc = 0

/-- R150: a number below 85^5 is that of its digits. -/
theorem sum_base85 {t : Nat} (ht : t < 2 ^ 32) :
    t / 85 ^ 4 % 85 * 85 ^ 4 + t / 85 ^ 3 % 85 * 85 ^ 3 + t / 85 ^ 2 % 85 * 85 ^ 2 + t / 85 ^ 1 % 85 * 85 ^ 1 +
      t / 85 ^ 0 % 85 = t := by
  omega

/-- R150, R163: the digits of a number give its four bytes. -/
theorem a85Result_base85 {t : Nat} (ht : t < 2 ^ 32) (rest : Bytes) {w : Work} (hw : w.BetweenGroups) :
    a85Result (base85 t ++ rest) w = a85Result rest { w with acc := 0, n := 0, out := w.out ++ unpack32 t } := by
  obtain ⟨hn, hacc⟩ := hw
  have hd (e : Nat) : t / 85 ^ e % 85 < 85 := Nat.mod_lt _ (by decide)
  have hsum := sum_base85 ht
  simp only [base85, List.map_cons, List.map_nil, List.cons_append, List.nil_append]
  rw [a85Result_digit (hd 4) _ (by omega), a85Result_digit (hd 3) _ (by dsimp only; omega),
    a85Result_digit (hd 2) _ (by dsimp only; omega), a85Result_digit (hd 1) _ (by dsimp only; omega)]
  simp only [hn, hacc]
  rw [a85Result_lastDigit (hd 0) _ rfl (by dsimp only; omega)]
  simp only [Nat.zero_add, Nat.sub_zero, Nat.reduceAdd, Nat.reduceSub, hsum]

/-- R70, R150: the bytes of the number of a group. -/
theorem unpack32_tupleNumber (a b c d : Byte) : unpack32 (tupleNumber [a, b, c, d]) = [a, b, c, d] := by
  have ha := a.isLt
  have hb := b.isLt
  have hc := c.isLt
  have hd := d.isLt
  simp only [unpack32, tupleNumber, List.getD_cons_zero, List.getD_cons_succ, List.cons.injEq, and_true]
  refine ⟨?_, ?_, ?_, ?_⟩ <;> apply BitVec.eq_of_toNat_eq <;> rw [BitVec.toNat_ofNat] <;> omega

/-- R154, R163, R164: the text of a complete group gives its four bytes. -/
theorem a85Result_group (a b c d : Byte) (rest : Bytes) {w : Work} (hw : w.BetweenGroups) :
    a85Result ((if tupleNumber [a, b, c, d] = 0 then [0x7A] else base85 (tupleNumber [a, b, c, d])) ++ rest) w =
      a85Result rest { w with acc := 0, n := 0, out := w.out ++ [a, b, c, d] } := by
  have hbytes := unpack32_tupleNumber a b c d
  split
  next hzero =>
    rw [hzero] at hbytes
    obtain ⟨hn, hacc⟩ := hw
    rw [List.singleton_append, a85Result_z rest hn]
    simp only [hn, hacc, ← hbytes]
    rfl
  · rw [a85Result_base85 (tupleNumber_lt _) rest hw, hbytes]

/-- R168: the end of a stream after the digits of a partial group. -/
theorem result_a85EndOfData_partial {w : Work} {k v : Nat} (hk : 1 ≤ k) (hn : w.n = k + 1)
    (hv : w.acc + Config.w85 k = v) (hfits : v < 2 ^ 32) :
    (a85EndOfData w).result = (.ok, w.out ++ (unpack32 v).take k) := by
  have hpred : w.n - 1 = k := by omega
  have hdone : a85EndOfData w = .done { w with out := w.out ++ (unpack32 v).take k } := by
    simp only [a85EndOfData, hpred, hv]
    rw [if_pos (by omega), if_neg (by omega)]
  rw [hdone, Progress.result]

theorem take_unpack32_congr {k v t : Nat} (hk : k ≤ 3) (h : v / 2 ^ (8 * (4 - k)) = t / 2 ^ (8 * (4 - k))) :
    (unpack32 v).take k = (unpack32 t).take k := by
  match k, hk with
  | 0, _ => rfl
  | 1, _ =>
    have h1 : v / 16777216 = t / 16777216 := h
    simp only [unpack32, List.take, h1]
  | 2, _ =>
    have h2 : v / 65536 = t / 65536 := h
    have h1 : v / 16777216 = t / 16777216 := by omega
    simp only [unpack32, List.take, h1, h2]
  | 3, _ =>
    have h3 : v / 256 = t / 256 := h
    have h2 : v / 65536 = t / 65536 := by omega
    have h1 : v / 16777216 = t / 16777216 := by omega
    simp only [unpack32, List.take, h1, h2, h3]

/-- The bytes held back are the first bytes of their number. -/
theorem take_unpack32_tupleNumber : ∀ {q : Bytes}, q.length ≤ 3 → (unpack32 (tupleNumber q)).take q.length = q
  | [], _ => rfl
  | [a], _ => congrArg (List.take 1) (unpack32_tupleNumber a 0 0 0)
  | [a, b], _ => congrArg (List.take 2) (unpack32_tupleNumber a b 0 0)
  | [a, b, c], _ => congrArg (List.take 3) (unpack32_tupleNumber a b c 0)
  | _ :: _ :: _ :: _ :: _, h => by simp only [List.length_cons] at h; omega

/-- R152, R168: the number that k + 1 digits of `t` give when it is biased has the first k bytes of `t`, since the
bytes of `t` after them are zeros. -/
theorem biased_div {t k : Nat} (ht : t < 2 ^ 32) (hk : k = 1 ∨ k = 2 ∨ k = 3) (hzero : 2 ^ (8 * (4 - k)) ∣ t) :
    (t / 85 ^ (4 - k) * 85 ^ (4 - k) + 85 ^ (4 - k)) / 2 ^ (8 * (4 - k)) = t / 2 ^ (8 * (4 - k)) ∧
      t / 85 ^ (4 - k) * 85 ^ (4 - k) + 85 ^ (4 - k) < 2 ^ 32 := by
  obtain rfl | rfl | rfl := hk <;> simp only [Nat.reduceSub, Nat.reduceMul, Nat.reducePow] at hzero ht ⊢ <;> omega

/-- R163: the digits of `t` from the first on, as many as leave their group open. -/
theorem a85Result_take_base85 {t k : Nat} (ht : t < 2 ^ 32) (hk : k = 1 ∨ k = 2 ∨ k = 3) (rest : Bytes) {w : Work}
    (hw : w.BetweenGroups) : a85Result ((base85 t).take (k + 1) ++ rest) w =
      a85Result rest { w with acc := t / 85 ^ (4 - k) * 85 ^ (4 - k), n := k + 1 } := by
  obtain ⟨hn, hacc⟩ := hw
  have hd (e : Nat) : t / 85 ^ e % 85 < 85 := Nat.mod_lt _ (by decide)
  have hsum : t / 85 ^ 4 % 85 * 85 ^ 4 + t / 85 ^ 3 % 85 * 85 ^ 3 = t / 85 ^ 3 * 85 ^ 3 ∧
      t / 85 ^ 3 * 85 ^ 3 + t / 85 ^ 2 % 85 * 85 ^ 2 = t / 85 ^ 2 * 85 ^ 2 ∧
      t / 85 ^ 2 * 85 ^ 2 + t / 85 ^ 1 % 85 * 85 ^ 1 = t / 85 ^ 1 * 85 ^ 1 := by omega
  obtain ⟨hsum3, hsum2, hsum1⟩ := hsum
  simp only [base85, List.map_cons, List.map_nil]
  obtain rfl | rfl | rfl := hk <;> simp only [List.take, List.cons_append, List.nil_append]
  · rw [a85Result_digit (hd 4) _ (by omega), a85Result_digit (hd 3) _ (by dsimp only; omega)]
    simp only [hn, hacc, Nat.zero_add, Nat.sub_zero, Nat.reduceAdd, Nat.reduceSub, hsum3]
  · rw [a85Result_digit (hd 4) _ (by omega), a85Result_digit (hd 3) _ (by dsimp only; omega),
      a85Result_digit (hd 2) _ (by dsimp only; omega)]
    simp only [hn, hacc, Nat.zero_add, Nat.sub_zero, Nat.reduceAdd, Nat.reduceSub, hsum3, hsum2]
  · rw [a85Result_digit (hd 4) _ (by omega), a85Result_digit (hd 3) _ (by dsimp only; omega),
      a85Result_digit (hd 2) _ (by dsimp only; omega), a85Result_digit (hd 1) _ (by dsimp only; omega)]
    simp only [hn, hacc, Nat.zero_add, Nat.sub_zero, Nat.reduceAdd, Nat.reduceSub, hsum3, hsum2, hsum1]

/-- R156, R168: the text of the bytes held back at the end gives them, when the stream ends after it. -/
theorem a85Result_partial {q term : Bytes} (hq : q.length ≤ 3) {w : Work} (hw : w.BetweenGroups)
    (hterm : ∀ w, a85Result term w = (a85EndOfData w).result) :
    a85Result (a85Partial q ++ term) w = (.ok, w.out ++ q) := by
  by_cases hempty : q = []
  · obtain ⟨hn, -⟩ := hw
    have hend : a85EndOfData w = .done w := if_neg (by omega)
    simp only [a85Partial, if_pos hempty, List.nil_append, hterm, hend, Progress.result]
    rw [hempty, List.append_nil]
  · have hk : q.length = 1 ∨ q.length = 2 ∨ q.length = 3 := by
      have hpos := List.length_pos_iff.mpr hempty
      omega
    have hzero : 2 ^ (8 * (4 - q.length)) ∣ tupleNumber q := by
      rw [show 8 * (4 - q.length) = 8 * (3 - q.length) + 8 by omega]
      exact two_pow_dvd_tupleNumber q hq
    obtain ⟨hdiv, hfits⟩ := biased_div (tupleNumber_lt q) hk hzero
    rw [a85Partial, if_neg hempty, a85Result_take_base85 (tupleNumber_lt q) hk term hw, hterm,
      result_a85EndOfData_partial (k := q.length) (by omega) rfl (by rw [w85_eq _ (by omega)]) hfits,
      take_unpack32_congr hq hdiv, take_unpack32_tupleNumber hq]

/-- R171: the text of the bytes decodes to them, when the stream ends after it. -/
theorem a85Result_a85Text {term : Bytes} (hterm : ∀ w, a85Result term w = (a85EndOfData w).result) (bs : Bytes) :
    ∀ {w : Work}, w.BetweenGroups → a85Result (a85Text bs ++ term) w = (.ok, w.out ++ bs) := by
  induction bs using a85Rest.induct with
  | case1 a b c d rest ih =>
    intro w hw
    rw [a85Text, a85Groups, a85Rest, List.append_assoc, List.append_assoc, a85Result_group a b c d _ hw,
      ← List.append_assoc]
    refine (ih (w := { w with acc := 0, n := 0, out := w.out ++ [a, b, c, d] }) ⟨rfl, rfl⟩).trans ?_
    simp only [List.append_assoc, List.cons_append, List.nil_append]
  | case2 => exact fun hw => a85Result_partial (q := []) (by simp) hw hterm
  | case3 a => exact fun hw => a85Result_partial (q := [a]) (by simp) hw hterm
  | case4 a b => exact fun hw => a85Result_partial (q := [a, b]) (by simp) hw hterm
  | case5 a b c => exact fun hw => a85Result_partial (q := [a, b, c]) (by simp) hw hterm

/-- R165, R166: the end of the input and the terminator end the stream. -/
theorem a85Result_terminator (junk : Bytes) (w : Work) :
    a85Result (0x7E :: 0x3E :: junk) w = (a85EndOfData w).result := by
  rw [a85Result, if_pos rfl, List.head?_cons, if_pos rfl]

theorem exec_a85Decode_a85Text {term : Bytes} (hterm : ∀ w, a85Result term w = (a85EndOfData w).result) (bs : Bytes)
    (p : Option Params) (s : State) : exec (.a85Decode (some (a85Text bs ++ term)) p) s = .next (s.decodeDone bs) := by
  rw [exec_a85Decode, a85Result_a85Text hterm bs ⟨rfl, rfl⟩]
  rfl

/-- Settles O32: the session writes the text of its blocks, and that text decodes to them, however the stream ends. -/
theorem a85RoundTrip : Obligations.A85RoundTrip := by
  intro s k blocks junk p hactive hk hwf hempty hacc
  have hlen := length_a85Text blocks.flatten
  obtain ⟨t, hrun, hstatus, hclosed, hsinks⟩ :=
    runAll_a85Session blocks hactive hk (hacc.mono (by split at hlen <;> omega))
  have hread : t.sinks.read k = a85Text blocks.flatten := by
    rw [hsinks, Memory.read_append_self _ _ _ hwf, hempty, List.nil_append]
  refine ⟨t, hrun, hstatus, hclosed, ?_, ?_⟩ <;> rw [hread]
  · have hdecode := exec_a85Decode_a85Text (term := []) (fun _ => rfl) blocks.flatten p t
    rwa [List.append_nil] at hdecode
  · exact exec_a85Decode_a85Text (a85Result_terminator junk) blocks.flatten p t

end Sys2Proof.Machine

/-! ## PNG reversal over all the rows (43_predictor.md R212, R216 to R223) -/

namespace Sys2Proof.Machine

/-- The equation of R216 for byte `i` of a row of `out`, as `PngReversed` has it. -/
def PngByte (rowBytes : Nat) (infl out : Bytes) (row i : Nat) : Prop :=
  (out.getD (row * rowBytes + i) 0).toNat =
    ((infl.getD (row * (rowBytes + 1) + 1 + i) 0).toNat
      + predicted (infl.getD (row * (rowBytes + 1)) 0).toNat
          (if i = 0 then 0 else (out.getD (row * rowBytes + i - 1) 0).toNat)
          (if row = 0 then 0 else (out.getD ((row - 1) * rowBytes + i) 0).toNat)
          (if row = 0 ∨ i = 0 then 0 else (out.getD ((row - 1) * rowBytes + i - 1) 0).toNat)) % 256

theorem getD_append_of_lt {α : Type} {l x : List α} {j : Nat} (a : α) (h : j < l.length) :
    (l ++ x).getD j a = l.getD j a := by
  simp only [List.getD_eq_getElem?_getD, List.getElem?_append_left h]

theorem getD_append_of_le {α : Type} {l x : List α} {j : Nat} (a : α) (h : l.length ≤ j) :
    (l ++ x).getD j a = x.getD (j - l.length) a := by
  simp only [List.getD_eq_getElem?_getD, List.getElem?_append_right h]

/-- What follows does not change the bytes of a row. -/
theorem PngByte.append {rowBytes : Nat} {infl out : Bytes} {row i : Nat} (x : Bytes)
    (hlt : row * rowBytes + i < out.length) (h : PngByte rowBytes infl out row i) :
    PngByte rowBytes infl (out ++ x) row i := by
  have hrow : (row - 1) * rowBytes ≤ row * rowBytes := Nat.mul_le_mul_right _ (Nat.sub_le _ _)
  unfold PngByte at h ⊢
  rw [getD_append_of_lt _ hlt, getD_append_of_lt _ (by omega), getD_append_of_lt _ (by omega),
    getD_append_of_lt _ (by omega), h]

/-- The registers after `rows` whole rows (R216, R222): the cursor on the next tag, the output all their bytes, the
row history the last of them. -/
structure Work.PastRows (w : Work) (rowBytes rows : Nat) : Prop where
  phase : w.phase = .png
  width : w.pred.rowBytes = rowBytes
  cursor : w.ip = rows * (rowBytes + 1)
  bound : w.ip ≤ w.inf.infl.length
  length : w.out.length = rows * rowBytes
  prev : ∀ i, i < rowBytes → w.pred.prev.getD i 0 = if rows = 0 then 0 else w.out.getD ((rows - 1) * rowBytes + i) 0
  tags : ∀ row, row < rows → (w.inf.infl.getD (row * (rowBytes + 1)) 0).toNat ≤ 4
  bytes : ∀ row i, i < rowBytes → row < rows → PngByte rowBytes w.inf.infl w.out row i

/-- The raw bytes of the row whose tag is at the cursor, as many as there are (R216, R223). -/
def Work.rawRow (w : Work) : Bytes := (w.inf.infl.drop (w.ip + 1)).take w.pred.rowBytes

/-- The row at the cursor, reconstructed (R216). -/
def Work.nextRow (w : Work) (tag : Byte) : Bytes :=
  reconstruct (filterOfTag tag.toNat) w.rawRow w.pred.prev 0 0

theorem Work.length_nextRow (w : Work) (tag : Byte) :
    (w.nextRow tag).length = min w.pred.rowBytes (w.inf.infl.length - (w.ip + 1)) := by
  rw [Work.nextRow, length_reconstruct, Work.rawRow, List.length_take, List.length_drop]

/-- R216: the bytes of the next row obey the equation. -/
theorem Work.PastRows.pngByte_nextRow {w : Work} {rowBytes rows : Nat} (h : w.PastRows rowBytes rows) {tag : Byte}
    (htag : w.inf.infl[w.ip]? = some tag) {i : Nat} (hi : i < (w.nextRow tag).length) :
    PngByte rowBytes w.inf.infl (w.out ++ w.nextRow tag) rows i := by
  have hlen := w.length_nextRow tag
  have hraw : i < w.rawRow.length := by rwa [Work.nextRow, length_reconstruct] at hi
  rw [h.width] at hlen
  have hrow : ∀ j, (w.out ++ w.nextRow tag).getD (rows * rowBytes + j) 0 = (w.nextRow tag).getD j 0 := fun j => by
    rw [getD_append_of_le _ (by rw [h.length]; omega), h.length, Nat.add_sub_cancel_left]
  have habove : ∀ j, j < rowBytes → (w.pred.prev.getD j 0).toNat =
      if rows = 0 then 0 else ((w.out ++ w.nextRow tag).getD ((rows - 1) * rowBytes + j) 0).toNat := fun j hj => by
    rw [h.prev j hj]
    by_cases hzero : rows = 0
    · rw [if_pos hzero, if_pos hzero]
      rfl
    · rw [if_neg hzero, if_neg hzero]
      have hlast : (rows - 1) * rowBytes + rowBytes = rows * rowBytes := by
        rw [← Nat.succ_mul, Nat.succ_eq_add_one, Nat.sub_add_cancel (by omega)]
      rw [getD_append_of_lt _ (by rw [h.length]; omega)]
  have hbyte : w.rawRow.getD i 0 = w.inf.infl.getD (rows * (rowBytes + 1) + 1 + i) 0 := by
    rw [Work.rawRow, getD_take_of_lt _ (by rw [h.width]; omega), getD_drop, h.cursor]
  have hat : w.inf.infl.getD (rows * (rowBytes + 1)) 0 = tag := by
    rw [← h.cursor, List.getD_eq_getElem?_getD, htag]; rfl
  have hmain := toNat_getD_reconstruct hraw (row := w.nextRow tag) rfl
  unfold PngByte
  rw [hrow, hmain, hbyte, hat, habove i (by omega)]
  cases i with
  | zero => simp only [if_true, or_true]
  | succ j =>
    have hleft := hrow j
    have hupleft := habove j (by omega)
    simp only [Nat.add_one_ne_zero, if_false, or_false, Nat.add_sub_cancel, ← Nat.add_assoc] at hleft hupleft ⊢
    rw [hleft, hupleft]

/-- R216, R222: a whole row leaves the registers after one row more. -/
theorem Work.PastRows.next {w w' : Work} {rowBytes rows : Nat} {tag : Byte} (h : w.PastRows rowBytes rows)
    (htag : w.inf.infl[w.ip]? = some tag) (hlegal : tag.toNat ≤ 4)
    (hwhole : w.ip + 1 + rowBytes ≤ w.inf.infl.length)
    (hrow : pngRow tag (filterOfTag tag.toNat) { w with ip := w.ip + 1 } = .running w') :
    w'.PastRows rowBytes (rows + 1) := by
  have hwidth := h.width
  have hlen := w.length_nextRow tag
  have hraw : w.rawRow.length = rowBytes := by
    rw [Work.rawRow, List.length_take, List.length_drop, hwidth]; omega
  rw [hwidth] at hlen
  have hframe : w' = { w with
      out := w.out ++ w.nextRow tag
      ip := w.ip + 1 + w.rawRow.length
      pred := { w.pred with
        tag := tag
        cur := w.nextRow tag
        col := w.rawRow.length
        prev := w.nextRow tag ++ w.pred.prev.drop (w.nextRow tag).length } } := by
    cases hrow; rfl
  have hcursor := h.cursor
  have hlength := h.length
  have hstep : (rows + 1) * (rowBytes + 1) = rows * (rowBytes + 1) + 1 + rowBytes := by
    rw [Nat.succ_mul]; omega
  have hstep' : (rows + 1) * rowBytes = rows * rowBytes + rowBytes := Nat.succ_mul ..
  have htags : ∀ row, row < rows + 1 → (w.inf.infl.getD (row * (rowBytes + 1)) 0).toNat ≤ 4 := fun row hrow => by
    by_cases hlast : row = rows
    · rw [hlast, ← hcursor, List.getD_eq_getElem?_getD, htag]; exact hlegal
    · exact h.tags row (by omega)
  have hbytes : ∀ row i, i < rowBytes → row < rows + 1 →
      PngByte rowBytes w.inf.infl (w.out ++ w.nextRow tag) row i := fun row i hi hrow => by
    by_cases hlast : row = rows
    · rw [hlast]; exact h.pngByte_nextRow htag (by omega)
    · refine (h.bytes row i hi (by omega)).append _ ?_
      have hle : (row + 1) * rowBytes ≤ rows * rowBytes := Nat.mul_le_mul_right _ (by omega)
      rw [Nat.succ_mul] at hle
      omega
  rw [hframe]
  refine ⟨h.phase, hwidth, ?_, ?_, ?_, fun i hi => ?_, htags, hbytes⟩
  · dsimp only; omega
  · dsimp only; omega
  · rw [List.length_append]; omega
  · rw [getD_append_of_lt _ (by omega), if_neg (Nat.succ_ne_zero rows), Nat.add_sub_cancel,
      getD_append_of_le _ (by omega)]
    congr 1
    omega

/-- R222, R223: past the last whole row, and a cut one if there is one, all is reversed. -/
theorem pngReversed_of_bytes {rowBytes rows last : Nat} {infl out : Bytes} (hlast : last ≤ rowBytes)
    (hinfl : infl.length = rows * (rowBytes + 1) + last) (hout : out.length = rows * rowBytes + (last - 1))
    (hbytes : ∀ row i, i < rowBytes → row * (rowBytes + 1) + 1 + i < infl.length → PngByte rowBytes infl out row i) :
    PngReversed rowBytes infl out := by
  have hdiv : infl.length / (rowBytes + 1) = rows := by
    rw [hinfl, Nat.add_comm, Nat.add_mul_div_right _ _ (Nat.succ_pos _), Nat.div_eq_of_lt (by omega), Nat.zero_add]
  have hmod : infl.length % (rowBytes + 1) = last := by
    rw [hinfl, Nat.add_comm, Nat.add_mul_mod_self_right, Nat.mod_eq_of_lt (by omega)]
  exact ⟨by rw [hdiv, hmod, hout], fun row i hi hlt => hbytes row i hi hlt⟩

theorem row_lt_of_lt {rowBytes rows row n : Nat} (hn : n ≤ rows * (rowBytes + 1)) (h : row * (rowBytes + 1) < n) :
    row < rows :=
  Nat.lt_of_mul_lt_mul_right (Nat.lt_of_lt_of_le h hn)

/-- R216: at the end of the inflated bytes all the rows are reversed. -/
theorem Work.PastRows.pngReversed {w : Work} {rowBytes rows : Nat} (h : w.PastRows rowBytes rows)
    (hend : w.inf.infl.length = w.ip) : ¬ HasBadTag rowBytes w.inf.infl ∧ PngReversed rowBytes w.inf.infl w.out := by
  have hinfl : w.inf.infl.length = rows * (rowBytes + 1) + 0 := hend.trans h.cursor
  refine ⟨?_, pngReversed_of_bytes (Nat.zero_le _) hinfl h.length fun row i hi hlt => h.bytes row i hi ?_⟩
  · rintro ⟨row, hrow, hbad⟩
    exact absurd (h.tags row (row_lt_of_lt (Nat.le_of_eq hinfl) hrow)) (by omega)
  · exact row_lt_of_lt (Nat.le_of_eq hinfl) (Nat.lt_of_le_of_lt (Nat.le_add_right _ (1 + i)) (by omega))

/-- R223: a cut last row gives the bytes that it has. -/
theorem Work.PastRows.pngReversed_cut {w : Work} {rowBytes rows : Nat} {tag : Byte} (h : w.PastRows rowBytes rows)
    (htag : w.inf.infl[w.ip]? = some tag) (hlegal : tag.toNat ≤ 4) (hcut : w.inf.infl.length < w.ip + 1 + rowBytes) :
    ¬ HasBadTag rowBytes w.inf.infl ∧ PngReversed rowBytes w.inf.infl (w.out ++ w.nextRow tag) := by
  have hlt : w.ip < w.inf.infl.length := (List.getElem?_eq_some_iff.mp htag).1
  have hwidth := h.width
  have hcursor := h.cursor
  have hlength := h.length
  have hlen := w.length_nextRow tag
  obtain ⟨last, hlast⟩ : ∃ last, w.inf.infl.length = w.ip + last := ⟨_, (Nat.add_sub_cancel' (Nat.le_of_lt hlt)).symm⟩
  have hnext : (rows + 1) * (rowBytes + 1) = rows * (rowBytes + 1) + (rowBytes + 1) := Nat.succ_mul _ _
  refine ⟨?_, pngReversed_of_bytes (rows := rows) (last := last) (by omega) (by omega)
    (by rw [List.length_append]; omega) fun row i hi hbyte => ?_⟩
  · rintro ⟨row, hrow, hbad⟩
    have hrows : row < rows + 1 := row_lt_of_lt (n := w.inf.infl.length) (by omega) hrow
    by_cases hsame : row = rows
    · rw [hsame, ← hcursor, List.getD_eq_getElem?_getD, htag, Option.getD_some] at hbad
      omega
    · exact absurd (h.tags row (by omega)) (by omega)
  · have hrows : row < rows + 1 := row_lt_of_lt (rowBytes := rowBytes) (n := w.inf.infl.length) (by omega) (by omega)
    by_cases hsame : row = rows
    · subst hsame
      exact h.pngByte_nextRow htag (by omega)
    · refine (h.bytes row i hi (by omega)).append _ ?_
      have hle : (row + 1) * rowBytes ≤ rows * rowBytes := Nat.mul_le_mul_right _ (by omega)
      rw [Nat.succ_mul] at hle
      omega

/-- The end of predictor reversal that R216 to R223 describe. -/
def PngOutcome (rowBytes : Nat) (infl : Bytes) (r : Progress) : Prop :=
  HasBadTag rowBytes infl ∧ r = .raised .invalidPredictor ∨
    ¬ HasBadTag rowBytes infl ∧ ∃ w, r = .done w ∧ PngReversed rowBytes infl w.out

/-- R221 to R223: the rows that are left are reversed, or one of them has an illegal tag. -/
theorem runs_pngRows (rowBytes fuel : Nat) : ∀ (rows : Nat) {w : Work}, w.PastRows rowBytes rows →
    w.inf.infl.length ≤ w.ip + fuel → ∃ r, w.Runs r ∧ PngOutcome rowBytes w.inf.infl r := by
  induction fuel with
  | zero =>
    intro rows w h hfuel
    obtain ⟨hlegal, hreversed⟩ := h.pngReversed (Nat.le_antisymm hfuel h.bound)
    exact ⟨_, .done (streamNext_pngEnd h.phase (List.getElem?_eq_none hfuel)), .inr ⟨hlegal, w, rfl, hreversed⟩⟩
  | succ fuel ih =>
    intro rows w h hfuel
    cases htag : w.inf.infl[w.ip]? with
    | none =>
      have hend : w.inf.infl.length = w.ip := Nat.le_antisymm (List.getElem?_eq_none_iff.mp htag) h.bound
      obtain ⟨hlegal, hreversed⟩ := h.pngReversed hend
      exact ⟨_, .done (streamNext_pngEnd h.phase htag), .inr ⟨hlegal, w, rfl, hreversed⟩⟩
    | some tag =>
      have hlt : w.ip < w.inf.infl.length := (List.getElem?_eq_some_iff.mp htag).1
      by_cases hlegal : tag.toNat ≤ 4
      · have hturn := streamNext_pngTag h.phase htag hlegal
        by_cases hwhole : w.ip + 1 + rowBytes ≤ w.inf.infl.length
        · have hnext := h.next htag hlegal hwhole (w' := _) rfl
          have hcursor := hnext.cursor
          rw [Nat.succ_mul, ← h.cursor] at hcursor
          obtain ⟨r, hrun, houtcome⟩ := ih (rows + 1) hnext (by rw [hcursor]; dsimp only; omega)
          exact ⟨r, .running hturn hrun, houtcome⟩
        · obtain ⟨hgood, hreversed⟩ := h.pngReversed_cut htag hlegal (by omega)
          refine ⟨_, .running hturn (.done (streamNext_pngEnd h.phase (List.getElem?_eq_none ?_))),
            .inr ⟨hgood, _, rfl, hreversed⟩⟩
          have hwidth := h.width
          simp only [List.length_take, List.length_drop]
          omega
      · refine ⟨_, .raised (streamNext_pngTag_illegal h.phase htag hlegal), .inl ⟨⟨rows, ?_, ?_⟩, rfl⟩⟩
        · rw [← h.cursor]; exact hlt
        · rw [← h.cursor, List.getD_eq_getElem?_getD, htag, Option.getD_some]; omega

/-- R212: `ceil(columns * bpc / 8)`. -/
theorem rowWidth_eq {columns bpc : Int} {rowBytes : Nat} (hcolumns : 1 ≤ columns) (hbpc : 1 ≤ bpc)
    (h : (rowBytes : Int) = (columns * bpc + 7) / 8) : rowWidth columns bpc = rowBytes := by
  obtain ⟨c, rfl⟩ := Int.eq_ofNat_of_zero_le (show 0 ≤ columns by omega)
  obtain ⟨b, rfl⟩ := Int.eq_ofNat_of_zero_le (show 0 ≤ bpc by omega)
  rw [← Int.natCast_mul] at h
  unfold rowWidth
  rw [Int.toNat_natCast, Int.toNat_natCast]
  omega

/-- The registers at the first tag (R212, R213): no output, and a zero history. -/
def rowsStart (bs y : Bytes) (q : Params) : Work :=
  { reversalStart bs y q with
    phase := .png
    out := []
    ip := 0
    pred := { (reversalStart bs y q).pred with
      rowBytes := rowWidth (q.columns.getD 1) (q.bitsPerComponent.getD 8)
      prev := [] } }

theorem pastRows_rowsStart (bs y : Bytes) (q : Params) :
    (rowsStart bs y q).PastRows (rowWidth (q.columns.getD 1) (q.bitsPerComponent.getD 8)) 0 where
  phase := rfl
  width := rfl
  cursor := (Nat.zero_mul _).symm
  bound := Nat.zero_le _
  length := (Nat.zero_mul _).symm
  prev _ _ := rfl
  tags _ h := absurd h (Nat.not_lt_zero _)
  bytes _ _ _ h := absurd h (Nat.not_lt_zero _)

/-- Settles O47: the turn of the Predictor value starts the rows at the first tag. -/
theorem pngReversalPointwise : Obligations.PngReversalPointwise := by
  intro bs y q rowBytes s hy hpng hcolumns hbpc hwidth
  have hstart : streamNext (reversalStart bs y q) = .running (rowsStart bs y q) := by
    rw [streamNext_reversalStart, decodePredictor, if_neg (by omega), if_neg (by omega), if_neg (by omega)]
    exact if_neg (not_or.mpr ⟨Int.not_lt.mpr hcolumns, Int.not_lt.mpr hbpc⟩)
  have hrows := pastRows_rowsStart bs y q
  rw [rowWidth_eq hcolumns hbpc hwidth] at hrows
  obtain ⟨r, hrun, houtcome⟩ := runs_pngRows rowBytes y.length 0 hrows (Nat.le_add_left _ _)
  rw [exec_flateDecode, flateRun_of_params hy, (runs_reversal bs y q).unique (.running hstart hrun)]
  obtain ⟨hbad, rfl⟩ | ⟨hgood, w, rfl, hreversed⟩ := houtcome
  · exact ⟨fun _ => deliver_raised _ s, fun hgood => absurd hbad hgood⟩
  · exact ⟨fun hbad => absurd hbad hgood, fun _ => ⟨w.out, hreversed, deliver_done w s⟩⟩

end Sys2Proof.Machine

/-! ## Bit sequences packed into bytes (20_memory.md R71, 47_zlib_deflate_reference.md R292) -/

namespace Sys2Proof.Machine

/-- The bits `l` stand from bit `k` on, for a reader of bits that gives `none` past its end. -/
def HoldsBits (read : Nat → Option Bool) (k : Nat) (l : List Bool) : Prop :=
  ∀ i b, l[i]? = some b → read (k + i) = some b

theorem holdsBits_cons {read : Nat → Option Bool} {k : Nat} {b : Bool} {l : List Bool}
    (h : HoldsBits read k (b :: l)) : read k = some b ∧ HoldsBits read (k + 1) l :=
  ⟨h 0 b rfl, fun i c hc => by rw [Nat.add_assoc, Nat.add_comm 1]; exact h (i + 1) c hc⟩

theorem holdsBits_append {read : Nat → Option Bool} {k : Nat} {l l' : List Bool} (h : HoldsBits read k (l ++ l')) :
    HoldsBits read k l ∧ HoldsBits read (k + l.length) l' := by
  refine ⟨fun i b hb => h i b ?_, fun i b hb => ?_⟩
  · rw [List.getElem?_append_left (List.getElem?_eq_some_iff.mp hb).1, hb]
  · rw [Nat.add_assoc]
    refine h (l.length + i) b ?_
    rw [List.getElem?_append_right (Nat.le_add_right _ _), Nat.add_sub_cancel_left, hb]

@[simp] theorem length_bitsMsb (width value : Nat) : (bitsMsb width value).length = width := by
  induction width with
  | zero => rfl
  | succ width ih => rw [bitsMsb, List.length_cons, ih]

/-- The bits of a byte that eight bits are packed into, the first the most significant (R71). -/
theorem getLsbD_packedMsb (bit : Nat → Bool) {j : Nat} (hj : j < 8) :
    (BitVec.ofNat 8 ((List.range 8).foldl (fun v i => 2 * v + (bit i).toNat) 0)).getLsbD (7 - j) = bit j := by
  have hpacked : ∀ b0 b1 b2 b3 b4 b5 b6 b7 : Bool, ∀ j : Fin 8,
      (BitVec.ofNat 8 ([b0, b1, b2, b3, b4, b5, b6, b7].foldl (fun v b => 2 * v + b.toNat) 0)).getLsbD (7 - j) =
        [b0, b1, b2, b3, b4, b5, b6, b7].getD j false := by decide
  have hbyte := hpacked (bit 0) (bit 1) (bit 2) (bit 3) (bit 4) (bit 5) (bit 6) (bit 7) ⟨j, hj⟩
  refine Eq.trans hbyte ?_
  match j, hj with
  | 0, _ | 1, _ | 2, _ | 3, _ | 4, _ | 5, _ | 6, _ | 7, _ => rfl

/-- The bits of a byte that eight bits are packed into, the first the least significant (R292). -/
theorem getLsbD_packedLsb (bit : Nat → Bool) {j : Nat} (hj : j < 8) :
    (BitVec.ofNat 8 ((List.range 8).foldr (fun i v => 2 * v + (bit i).toNat) 0)).getLsbD j = bit j := by
  have hpacked : ∀ b0 b1 b2 b3 b4 b5 b6 b7 : Bool, ∀ j : Fin 8,
      (BitVec.ofNat 8 ([b0, b1, b2, b3, b4, b5, b6, b7].foldr (fun b v => 2 * v + b.toNat) 0)).getLsbD j =
        [b0, b1, b2, b3, b4, b5, b6, b7].getD j false := by decide
  have hbyte := hpacked (bit 0) (bit 1) (bit 2) (bit 3) (bit 4) (bit 5) (bit 6) (bit 7) ⟨j, hj⟩
  refine Eq.trans hbyte ?_
  match j, hj with
  | 0, _ | 1, _ | 2, _ | 3, _ | 4, _ | 5, _ | 6, _ | 7, _ => rfl

@[simp] theorem length_packMsb (bits : List Bool) : (packMsb bits).length = (bits.length + 7) / 8 := by
  rw [packMsb, List.length_map, List.length_range]

@[simp] theorem length_packLsb (bits : List Bool) : (packLsb bits).length = (bits.length + 7) / 8 := by
  rw [packLsb, List.length_map, List.length_range]

/-- A bit of an LZW stream, `none` past its end. -/
def msbBit? (bs : Bytes) (k : Nat) : Option Bool := if k < 8 * bs.length then some (msbBit bs k) else none

/-- R71: the packed bits stand at the front of the bytes, whatever follows. -/
theorem holdsBits_packMsb (bits : List Bool) (junk : Bytes) : HoldsBits (msbBit? (packMsb bits ++ junk)) 0 bits := by
  intro i b hb
  have hi : i < bits.length := (List.getElem?_eq_some_iff.mp hb).1
  have hbyte : i / 8 < (bits.length + 7) / 8 := by omega
  have hbit : bits.getD (8 * (i / 8) + i % 8) false = b := by
    rw [Nat.div_add_mod, List.getD_eq_getElem?_getD, hb, Option.getD_some]
  rw [Nat.zero_add, msbBit?, if_pos (by rw [List.length_append, length_packMsb]; omega), msbBit,
    getD_append_of_lt _ (by rwa [length_packMsb]), List.getD_eq_getElem?_getD, packMsb, List.getElem?_map,
    List.getElem?_range hbyte, Option.map_some, Option.getD_some,
    getLsbD_packedMsb (fun j => bits.getD (8 * (i / 8) + j) false) (Nat.mod_lt i (by decide)), hbit]

/-- R292: the packed bits stand at the front of the DEFLATE data, whatever the header and what follows. -/
theorem holdsBits_packLsb (bits : List Bool) (cmf flg : Byte) (rest : Bytes) :
    HoldsBits (lsbBit ([cmf, flg] ++ packLsb bits ++ rest)) 0 bits := by
  intro i b hb
  have hi : i < bits.length := (List.getElem?_eq_some_iff.mp hb).1
  have hbyte : i / 8 < (bits.length + 7) / 8 := by omega
  have hbit : bits.getD (8 * (i / 8) + i % 8) false = b := by
    rw [Nat.div_add_mod, List.getD_eq_getElem?_getD, hb, Option.getD_some]
  have hread : ([cmf, flg] ++ packLsb bits ++ rest)[2 + i / 8]? = (packLsb bits)[i / 8]? := by
    rw [List.append_assoc, List.getElem?_append_right (Nat.le_add_right 2 _),
      List.getElem?_append_left (by simpa using hbyte)]
    congr 1
    exact Nat.add_sub_cancel_left ..
  rw [Nat.zero_add, lsbBit, hread, packLsb, List.getElem?_map, List.getElem?_range hbyte, Option.map_some,
    Option.map_some, getLsbD_packedLsb (fun j => bits.getD (8 * (i / 8) + j) false) (Nat.mod_lt i (by decide)), hbit]

/-- R264: a field that stands most significant bit first is read as its value. -/
theorem readMsb_of_holdsBits {bs : Bytes} {value : Nat} : ∀ {width bp acc : Nat},
    HoldsBits (msbBit? bs) bp (bitsMsb width value) → readMsb bs bp width acc = acc * 2 ^ width + value % 2 ^ width
  | 0, _, _, _ => by rw [readMsb, Nat.pow_zero, Nat.mul_one, Nat.mod_one, Nat.add_zero]
  | width + 1, bp, acc, h => by
    obtain ⟨hfirst, hrest⟩ := holdsBits_cons h
    have hbit : msbBit bs bp = value.testBit width := by
      unfold msbBit? at hfirst
      split at hfirst
      · exact Option.some.inj hfirst
      · cases hfirst
    rw [readMsb, readMsb_of_holdsBits hrest, hbit, Nat.mod_pow_succ, Nat.toNat_testBit]
    rw [Nat.add_mul, Nat.pow_succ', Nat.mul_comm 2 acc, Nat.mul_assoc, Nat.mul_comm (_ % 2)]
    omega

theorem le_of_holdsBits {bs : Bytes} {width bp value : Nat} (hwidth : width ≠ 0)
    (h : HoldsBits (msbBit? bs) bp (bitsMsb width value)) : bp + width ≤ 8 * bs.length := by
  obtain ⟨last, rfl⟩ := Nat.exists_eq_succ_of_ne_zero hwidth
  have hlen : last < (bitsMsb (last + 1) value).length := by rw [length_bitsMsb]; exact Nat.lt_succ_self _
  have hbit := h last _ (List.getElem?_eq_getElem hlen)
  unfold msbBit? at hbit
  split at hbit
  · omega
  · cases hbit

end Sys2Proof.Machine

/-! ## LZW: a stream of single-byte codes (45_lzw.md R262 to R274) -/

namespace Sys2Proof.Machine

/-- R264: a turn on a code that stands at the bit cursor. -/
theorem streamNext_lzwCode_of_holdsBits {w : Work} {v : Nat} (hphase : w.phase = .lzw) (hwidth : w.lzw.codeLength ≠ 0)
    (hv : v < 2 ^ w.lzw.codeLength) (h : HoldsBits (msbBit? w.input) w.lzw.bp (bitsMsb w.lzw.codeLength v)) :
    streamNext w = runSymbol (decodeLzwCode w.lzw.tableSize w.lzw.prev.isSome (BitVec.ofNat 12 v))
      { w with lzw := w.lzw.skipCode } := by
  rw [streamNext_lzwCode hphase (le_of_holdsBits hwidth h), lzwCodeAt, readMsb_of_holdsBits h, Nat.zero_mul,
    Nat.zero_add, Nat.mod_eq_of_lt hv]

/-- The registers before data code number `k` after a clear (R266, R270, R271): from the second on every data code
learns an entry. -/
structure LzwRegs.AtDataCode (r : LzwRegs) (k : Nat) : Prop where
  width : r.codeLength = dataCodeWidth k
  learned : k = 1 ∧ r.prev = none ∧ r.learned.length = 0 ∨ 2 ≤ k ∧ r.prev.isSome = true ∧ r.learned.length = k - 2

theorem dataCodeWidth_bounds (k : Nat) : 9 ≤ dataCodeWidth k := by
  unfold dataCodeWidth
  (repeat' split) <;> omega

/-- R271: the width grows where the schedule of the data codes has it grow. -/
theorem widened_dataCodeWidth {k : Nat} (hk : 2 ≤ k) : widened (257 + k) (dataCodeWidth k) = dataCodeWidth (k + 1) := by
  unfold widened dataCodeWidth
  (repeat' split) <;> omega

theorem LzwRegs.AtDataCode.next {r : LzwRegs} {k : Nat} (h : r.AtDataCode k) (char : Byte) (code : BitVec 12) :
    (r.learn char code).AtDataCode (k + 1) := by
  obtain ⟨hwidth, ⟨rfl, hprev, hlearned⟩ | ⟨hk, hprev, hlearned⟩⟩ := h
  · rw [LzwRegs.learn_of_none hprev]
    exact ⟨hwidth, .inr ⟨Nat.le_refl 2, rfl, hlearned⟩⟩
  · obtain ⟨p, hp⟩ := Option.isSome_iff_exists.mp hprev
    have hsize : r.tableSize + 1 = 257 + k := by rw [LzwRegs.tableSize, hlearned]; omega
    rw [LzwRegs.learn_of_some hp, hsize, hwidth, widened_dataCodeWidth hk]
    refine ⟨rfl, .inr ⟨by omega, rfl, ?_⟩⟩
    rw [List.length_append, List.length_singleton, hlearned]
    omega

/-- R267: a single-byte code emits its byte. -/
theorem runSymbol_byteCode (w : Work) (b : Byte) :
    runSymbol (decodeLzwCode w.lzw.tableSize w.lzw.prev.isSome (BitVec.ofNat 12 b.toNat))
      { w with lzw := w.lzw.skipCode } =
      .running { w with
        out := w.out ++ [b]
        lzw := { w.lzw.learn b (BitVec.ofNat 12 b.toNat) with bp := w.lzw.bp + w.lzw.codeLength } } := by
  have hb := b.isLt
  have hcode : (BitVec.ofNat 12 b.toNat).toNat = b.toNat := by rw [BitVec.toNat_ofNat]; omega
  have hsize : b.toNat < w.lzw.tableSize := by unfold LzwRegs.tableSize; omega
  have hclass : decodeLzwCode w.lzw.tableSize w.lzw.prev.isSome (BitVec.ofNat 12 b.toNat) =
      .lzwKnown (BitVec.ofNat 12 b.toNat) := by
    simp only [decodeLzwCode, hcode, Config.lzwClear, Config.lzwEod]
    rw [if_neg (by omega), if_neg (by omega), if_pos hsize]
  have hentry : w.lzw.entry b.toNat = [b] := by
    rw [LzwRegs.entry, if_pos (by omega), BitVec.ofNat_toNat, BitVec.setWidth_eq]
  have hskip : w.lzw.skipCode.entry b.toNat = [b] := hentry
  have hlearn := w.lzw.learn_skipCode b (BitVec.ofNat 12 b.toNat)
  rw [hclass]
  refine (if_pos (hcode.symm ▸ hsize)).trans ?_
  simp only [emitAndLearn, hcode, hskip, List.headD_cons, hlearn]

/-- R274: the end-of-data code ends the stream. -/
theorem runSymbol_eodCode (size : Nat) (hasPrev : Bool) (w : Work) :
    runSymbol (decodeLzwCode size hasPrev (BitVec.ofNat 12 257)) w = .done w := rfl

/-- R266: the clear code. -/
theorem runSymbol_clearCode (size : Nat) (hasPrev : Bool) (w : Work) :
    runSymbol (decodeLzwCode size hasPrev (BitVec.ofNat 12 256)) w =
      .running { w with lzw := { w.lzw with learned := [], codeLength := 9, prev := none } } := rfl

/-- The loop over single-byte codes and the end of data. -/
theorem runs_lzwByteCodes (bs : Bytes) : ∀ {k : Nat} {w : Work}, w.phase = .lzw → w.lzw.AtDataCode k →
    HoldsBits (msbBit? w.input) w.lzw.bp (lzwByteCodes k bs) → ∃ w', w.Runs (.done w') ∧ w'.out = w.out ++ bs := by
  induction bs with
  | nil =>
    intro k w hphase hat hbits
    have hwide := dataCodeWidth_bounds k
    rw [lzwByteCodes, ← hat.width] at hbits
    rw [← hat.width] at hwide
    have hfits : 257 < 2 ^ w.lzw.codeLength := Nat.lt_of_lt_of_le (by decide) (Nat.pow_le_pow_right (by decide) hwide)
    refine ⟨_, .done ((streamNext_lzwCode_of_holdsBits hphase (by omega) hfits hbits).trans (runSymbol_eodCode _ _ _)), ?_⟩
    exact (List.append_nil _).symm
  | cons b bs ih =>
    intro k w hphase hat hbits
    have hwide := dataCodeWidth_bounds k
    rw [lzwByteCodes] at hbits
    obtain ⟨hcode, hrest⟩ := holdsBits_append hbits
    rw [length_bitsMsb] at hrest
    rw [← hat.width] at hcode hrest hwide
    have hfits : b.toNat < 2 ^ w.lzw.codeLength :=
      Nat.lt_of_lt_of_le b.isLt (Nat.pow_le_pow_right (by decide) (by omega))
    have hturn := (streamNext_lzwCode_of_holdsBits hphase (by omega) hfits hcode).trans (runSymbol_byteCode w b)
    obtain ⟨hwidth, hlearned⟩ := hat.next b (BitVec.ofNat 12 b.toNat)
    obtain ⟨w', hrun, hout⟩ := ih (k := k + 1) (w := { w with
      out := w.out ++ [b]
      lzw := { w.lzw.learn b (BitVec.ofNat 12 b.toNat) with bp := w.lzw.bp + w.lzw.codeLength } })
      hphase ⟨hwidth, hlearned⟩ hrest
    exact ⟨w', .running hturn hrun, by rw [hout, List.append_assoc, List.singleton_append]⟩

/-- Settles O45: the clear code starts the schedule of the widths, and each byte's code is at the width of its number. -/
theorem lzwByteStreamDecodes : Obligations.LzwByteStreamDecodes := by
  intro bs junk p s
  obtain ⟨hclear, hcodes⟩ := holdsBits_append (holdsBits_packMsb (bitsMsb 9 256 ++ lzwByteCodes 1 bs) junk)
  have hturn := (streamNext_lzwCode_of_holdsBits (w := lzwStart (lzwByteStream bs ++ junk) p) (v := 256) rfl
    (Nat.succ_ne_zero 8) (show 256 < 2 ^ 9 by decide) hclear).trans (runSymbol_clearCode _ _ _)
  obtain ⟨w', hrun, hout⟩ := runs_lzwByteCodes bs (k := 1) (w := { lzwStart (lzwByteStream bs ++ junk) p with
    lzw := { (LzwRegs.start.skipCode) with learned := [], codeLength := 9, prev := none } }) rfl
    ⟨rfl, .inl ⟨rfl, rfl, rfl⟩⟩ hcodes
  rw [exec_lzwDecode_of_runs (.running hturn hrun), deliver_done, hout]
  rfl

end Sys2Proof.Machine

/-! ## Decoding a symbol from its code (47_zlib_deflate_reference.md R295 to R297) -/

namespace Sys2Proof.Machine

/-- The symbol of the code of `l` bits and value `c`, where there is one. -/
def HuffCode.symbolOf (code : HuffCode) (l c : Nat) : Option Nat :=
  (code.find? fun e => e.len == l && e.code == c).map (·.sym)

theorem HuffCode.symbolOf_eq_none {code : HuffCode} {l c : Nat}
    (h : ∀ e ∈ code, e.len = l → e.code ≠ c) : code.symbolOf l c = none := by
  rw [symbolOf, Option.map_eq_none_iff, List.find?_eq_none]
  intro e he hmatch
  rw [Bool.and_eq_true, beq_iff_eq, beq_iff_eq] at hmatch
  exact h e he hmatch.1 hmatch.2

theorem HuffCode.symbolOf_eq_some {code : HuffCode} {l c sym : Nat} (hmem : ⟨l, c, sym⟩ ∈ code)
    (hunique : ∀ e ∈ code, e.len = l → e.code = c → e.sym = sym) : code.symbolOf l c = some sym := by
  cases hfind : code.find? fun e => e.len == l && e.code == c with
  | none => exact absurd (by rw [beq_self_eq_true, beq_self_eq_true]; rfl) (List.find?_eq_none.mp hfind _ hmem)
  | some e =>
    have hmatch := List.find?_some hfind
    rw [Bool.and_eq_true, beq_iff_eq, beq_iff_eq] at hmatch
    rw [symbolOf, hfind, Option.map_some, hunique e (List.mem_of_find?_eq_some hfind) hmatch.1 hmatch.2]

theorem readSymbolFrom_succ {bs : Bytes} {code : HuffCode} {fuel k l c : Nat} {b : Bool} (hbit : lsbBit bs k = some b) :
    readSymbolFrom bs code (fuel + 1) k l c =
      (code.symbolOf (l + 1) (2 * c + b.toNat)).elim (readSymbolFrom bs code fuel (k + 1) (l + 1) (2 * c + b.toNat))
        fun sym => some (sym, k + 1) := by
  simp only [readSymbolFrom, hbit, HuffCode.symbolOf]
  cases code.find? fun e => e.len == l + 1 && e.code == 2 * c + b.toNat <;> rfl

/-- R296: the last `n` bits of a code whose first `l` bits are no symbol's code, nor any longer part of it. -/
theorem readSymbolFrom_of_symbolOf {bs : Bytes} {code : HuffCode} {value sym : Nat} : ∀ {n fuel k l : Nat},
    n ≠ 0 → n ≤ fuel → HoldsBits (lsbBit bs) k (bitsMsb n value) → code.symbolOf (l + n) value = some sym →
    (∀ i, 0 < i → i < n → code.symbolOf (l + n - i) (value / 2 ^ i) = none) →
    readSymbolFrom bs code fuel k l (value / 2 ^ n) = some (sym, k + n)
  | 0, _, _, _, hn, _, _, _, _ => absurd rfl hn
  | n + 1, 0, _, _, _, hfuel, _, _, _ => absurd hfuel (Nat.not_succ_le_zero n)
  | n + 1, fuel + 1, k, l, _, hfuel, hbits, hsym, hnone => by
    obtain ⟨hbit, hrest⟩ := holdsBits_cons hbits
    have hvalue : 2 * (value / 2 ^ (n + 1)) + (value.testBit n).toNat = value / 2 ^ n := by
      rw [Nat.toNat_testBit, Nat.pow_succ, ← Nat.div_div_eq_div_mul, Nat.div_add_mod]
    rw [readSymbolFrom_succ hbit, hvalue]
    by_cases hlast : n = 0
    · subst hlast
      rw [Nat.pow_zero, Nat.div_one, hsym, Option.elim_some]
    · have hpart := hnone n (Nat.pos_of_ne_zero hlast) (Nat.lt_succ_self n)
      rw [← Nat.add_assoc, Nat.add_right_comm, Nat.add_sub_cancel] at hpart
      rw [hpart, Option.elim_none, readSymbolFrom_of_symbolOf hlast (Nat.le_of_succ_le_succ hfuel) hrest,
        Nat.add_right_comm, Nat.add_assoc]
      · rw [Nat.add_right_comm, Nat.add_assoc]; exact hsym
      · intro i hpos hlt
        rw [Nat.add_right_comm, Nat.add_assoc]
        exact hnone i hpos (Nat.lt_succ_of_lt hlt)

/-- R295: symbols in a row with one length take codes in a row. -/
theorem assignCodes_replicate {l : Nat} (hl : l ≠ 0) (ls : List Nat) : ∀ (n sym : Nat) {next : List Nat},
    l < next.length → assignCodes next sym (List.replicate n l ++ ls) =
      (List.range n).map (fun i => ⟨l, next.getD l 0 + i, sym + i⟩) ++
        assignCodes (next.set l (next.getD l 0 + n)) (sym + n) ls
  | 0, sym, next, hlt => by
    have hsame : next.set l (next.getD l 0) = next := by
      rw [List.getD_eq_getElem?_getD, List.getElem?_eq_getElem hlt, Option.getD_some, List.set_getElem_self]
    simp only [List.replicate_zero, List.nil_append, List.range_zero, List.map_nil, Nat.add_zero, hsame]
  | n + 1, sym, next, hlt => by
    have hnext : (next.set l (next.getD l 0 + 1)).getD l 0 = next.getD l 0 + 1 := by
      rw [List.getD_eq_getElem?_getD, List.getElem?_set_self hlt, Option.getD_some]
    rw [List.replicate_succ, List.cons_append, assignCodes, if_neg hl,
      assignCodes_replicate hl ls n (sym + 1) (by rwa [List.length_set]), hnext, List.set_set, List.range_succ_eq_map,
      List.map_cons, List.map_map, List.cons_append]
    simp only [Function.comp_def, Nat.succ_eq_add_one, Nat.add_assoc, Nat.add_comm 1, Nat.add_zero]

/-- R297: a symbol of the fixed code, with its length and its code. -/
def IsFixedCode (len code sym : Nat) : Prop :=
  (len = 8 ∧ code = 0x30 + sym ∧ sym < 144) ∨ (len = 9 ∧ code = 0x190 + (sym - 144) ∧ 144 ≤ sym ∧ sym < 256) ∨
    (len = 7 ∧ code = sym - 256 ∧ 256 ≤ sym ∧ sym < 280) ∨ (len = 8 ∧ code = 0xC0 + (sym - 280) ∧ 280 ≤ sym ∧ sym < 288)

theorem firstCode_fixedLitLens : firstCode fixedLitLens 7 = 0 ∧ firstCode fixedLitLens 8 = 0x30 ∧
    firstCode fixedLitLens 9 = 0x190 := by
  have hcount : ∀ b, fixedLitLens.count b = (if 8 = b then 144 else 0) + (if 9 = b then 112 else 0) +
      (if 7 = b then 24 else 0) + (if 8 = b then 8 else 0) := fun b => by
    simp only [fixedLitLens, List.count_append, List.count_replicate, beq_iff_eq]
  simp only [firstCode, blCount, hcount]
  decide

theorem canonicalCode_fixedLitLens : canonicalCode fixedLitLens =
    (List.range 144).map (fun i => ⟨8, 0x30 + i, i⟩) ++ ((List.range 112).map (fun i => ⟨9, 0x190 + i, 144 + i⟩) ++
      ((List.range 24).map (fun i => ⟨7, i, 256 + i⟩) ++ (List.range 8).map (fun i => ⟨8, 0xC0 + i, 280 + i⟩))) := by
  obtain ⟨hseven, height, hnine⟩ := firstCode_fixedLitLens
  rw [canonicalCode]
  obtain ⟨next, hnext⟩ : ∃ next, (List.range 16).map (firstCode fixedLitLens) = next := ⟨_, rfl⟩
  have hlen : next.length = 16 := by rw [← hnext, List.length_map, List.length_range]
  have hfirst : ∀ l (hl : l < next.length), next[l] = firstCode fixedLitLens l := fun l hl => by
    simp only [← hnext, List.getElem_map, List.getElem_range]
  rw [hnext, fixedLitLens, List.append_assoc, List.append_assoc, ← List.append_nil (List.replicate 8 8),
    assignCodes_replicate (by decide) _ _ _ (by rw [hlen]; decide),
    assignCodes_replicate (by decide) _ _ _ (by rw [List.length_set, hlen]; decide),
    assignCodes_replicate (by decide) _ _ _ (by rw [List.length_set, List.length_set, hlen]; decide),
    assignCodes_replicate (by decide) _ _ _ (by rw [List.length_set, List.length_set, List.length_set, hlen]; decide)]
  simp [List.getD_eq_getElem?_getD, hlen, hfirst, hseven, height, hnine, assignCodes]

theorem mem_canonicalCode_fixedLitLens {e : HuffEntry} :
    e ∈ canonicalCode fixedLitLens ↔ IsFixedCode e.len e.code e.sym := by
  obtain ⟨len, code, sym⟩ := e
  rw [canonicalCode_fixedLitLens]
  simp only [List.mem_append, List.mem_map, List.mem_range, IsFixedCode, HuffEntry.mk.injEq]
  constructor
  · rintro (⟨i, hi, hlen, hcode, hsym⟩ | ⟨i, hi, hlen, hcode, hsym⟩ | ⟨i, hi, hlen, hcode, hsym⟩ |
      ⟨i, hi, hlen, hcode, hsym⟩) <;> omega
  · rintro (⟨hlen, hcode, hlt⟩ | ⟨hlen, hcode, hle, hlt⟩ | ⟨hlen, hcode, hle, hlt⟩ | ⟨hlen, hcode, hle, hlt⟩)
    · exact .inl ⟨sym, hlt, by omega⟩
    · exact .inr (.inl ⟨sym - 144, by omega⟩)
    · exact .inr (.inr (.inl ⟨sym - 256, by omega⟩))
    · exact .inr (.inr (.inr ⟨sym - 280, by omega⟩))

/-- No code of the fixed codes is the front part of another. -/
theorem IsFixedCode.not_part {len code sym i sym' : Nat} (h : IsFixedCode len code sym) (hpos : 0 < i) :
    ¬ IsFixedCode (len - i) (code / 2 ^ i) sym' := by
  intro h'
  have hi : i = 1 ∨ i = 2 := by unfold IsFixedCode at h h'; omega
  unfold IsFixedCode at h h'
  obtain rfl | rfl := hi
  · rw [Nat.pow_one] at h'; omega
  · rw [show 2 ^ 2 = 4 from rfl] at h'; omega

theorem symbolOf_fixedLitLens {len code sym : Nat} (h : IsFixedCode len code sym) :
    (canonicalCode fixedLitLens).symbolOf len code = some sym := by
  refine HuffCode.symbolOf_eq_some (mem_canonicalCode_fixedLitLens.mpr h) fun e he hlen hcode => ?_
  have he' := mem_canonicalCode_fixedLitLens.mp he
  rw [hlen, hcode] at he'
  unfold IsFixedCode at h he'
  omega

theorem fixedCodeBits_eq {sym : Nat} (hsym : sym < 280) :
    ∃ len code, IsFixedCode len code sym ∧ fixedCodeBits sym = bitsMsb len code := by
  unfold fixedCodeBits IsFixedCode
  by_cases hlow : sym < 144
  · exact ⟨8, _, .inl ⟨rfl, rfl, hlow⟩, if_pos hlow⟩
  rw [if_neg hlow]
  by_cases hbyte : sym < 256
  · exact ⟨9, _, .inr (.inl ⟨rfl, rfl, by omega, hbyte⟩), if_pos hbyte⟩
  · exact ⟨7, _, .inr (.inr (.inl ⟨rfl, rfl, by omega, hsym⟩)), if_neg hbyte⟩

/-- R296, R297: a symbol's bits read as that symbol. -/
theorem readSymbol_fixedLitLens {bs : Bytes} {k sym : Nat} (hsym : sym < 280)
    (h : HoldsBits (lsbBit bs) k (fixedCodeBits sym)) :
    readSymbol bs (canonicalCode fixedLitLens) k = some (sym, k + (fixedCodeBits sym).length) := by
  obtain ⟨len, code, hcode, hbits⟩ := fixedCodeBits_eq hsym
  have hbounds : len ≠ 0 ∧ len ≤ 15 ∧ code / 2 ^ len = 0 := by
    obtain ⟨rfl, hc⟩ | ⟨rfl, hc⟩ | ⟨rfl, hc⟩ | ⟨rfl, hc⟩ := hcode <;>
      exact ⟨by decide, by decide, Nat.div_eq_of_lt (by omega)⟩
  obtain ⟨hpos, hfuel, hzero⟩ := hbounds
  rw [hbits] at h ⊢
  have hread := readSymbolFrom_of_symbolOf (l := 0) hpos hfuel h
    (by rw [Nat.zero_add]; exact symbolOf_fixedLitLens hcode) fun i hi _ =>
      HuffCode.symbolOf_eq_none fun e he hlen heq => by
        have hpart := mem_canonicalCode_fixedLitLens.mp he
        rw [hlen, heq, Nat.zero_add] at hpart
        exact hcode.not_part hi hpart
  rwa [hzero, ← length_bitsMsb len code] at hread

end Sys2Proof.Machine

/-! ## A zlib stream of one fixed block of literals (47_zlib_deflate_reference.md R291 to R311) -/

namespace Sys2Proof.Machine

/-- R293, R296, R302: a turn on a symbol of the fixed code that stands at the bit cursor. -/
theorem streamNext_of_fixedCodeBits {w : Work} {sym : Nat} {i : Instr} (hphase : w.phase = .data)
    (hcode : w.inf.litCode = canonicalCode fixedLitLens) (hsym : sym < 280) (hdecode : decodeLitLen sym = some i)
    (hbits : HoldsBits (lsbBit w.input) w.inf.bitPos (fixedCodeBits sym)) :
    streamNext w = runSymbol i (w.atBit (w.inf.bitPos + (fixedCodeBits sym).length)) := by
  simp only [streamNext, fetch_data hphase, hcode, readSymbol_fixedLitLens hsym hbits, fetchedSymbol, hdecode, Work.atBit]

/-- The bits of literals and the end of their block (R297). -/
def literalBits (bs : Bytes) : List Bool := bs.flatMap (fun b => fixedCodeBits b.toNat) ++ fixedCodeBits 256

theorem literalBits_cons (b : Byte) (bs : Bytes) : literalBits (b :: bs) = fixedCodeBits b.toNat ++ literalBits bs := by
  rw [literalBits, List.flatMap_cons, List.append_assoc, ← literalBits]

/-- The registers past the literals `bs` of a final block. -/
def Work.pastLiterals (w : Work) (bs : Bytes) : Work :=
  { w with
    phase := .trailer
    inf := { w.inf with bitPos := w.inf.bitPos + (literalBits bs).length, infl := w.inf.infl ++ bs } }

/-- The loop over literals, up to the end of a final block. -/
theorem runs_literals {r : Progress} : ∀ {bs : Bytes} {w : Work}, w.phase = .data →
    w.inf.litCode = canonicalCode fixedLitLens → w.inf.bfinal = true →
    HoldsBits (lsbBit w.input) w.inf.bitPos (literalBits bs) → (w.pastLiterals bs).Runs r → w.Runs r
  | [], w, hphase, hcode, hfinal, hbits, hrest => by
    have hturn := streamNext_of_fixedCodeBits (sym := 256) hphase hcode (by omega) rfl hbits
    have hend : runSymbol .deflateSymEndOfBlock (w.atBit (w.inf.bitPos + (fixedCodeBits 256).length)) =
        .running (w.pastLiterals []) := by
      simp only [runSymbol, deflateSymEndOfBlock, afterBlock, Work.atBit, hfinal, if_true, Work.pastLiterals,
        List.append_nil, literalBits, List.flatMap_nil, List.nil_append]
    exact .running (hturn.trans hend) hrest
  | b :: bs, w, hphase, hcode, hfinal, hbits, hrest => by
    rw [literalBits_cons] at hbits
    obtain ⟨hfirst, hbits⟩ := holdsBits_append hbits
    have hb := b.isLt
    have hdecode : decodeLitLen b.toNat = some (.deflateSymLiteral b) := by
      rw [decodeLitLen, if_pos hb, BitVec.ofNat_toNat, BitVec.setWidth_eq]
    have hturn := streamNext_of_fixedCodeBits hphase hcode (by omega) hdecode hfirst
    refine .running (hturn.trans rfl) (runs_literals (bs := bs) hphase hcode hfinal hbits ?_)
    simp only [Work.pastLiterals, Work.atBit, List.append_assoc, List.singleton_append, Nat.add_assoc,
      ← List.length_append, ← literalBits_cons]
    exact hrest

/-- R293: the header of a final block with the fixed codes. -/
theorem readLsb_fixedHeader {bs : Bytes} {k : Nat} (h : HoldsBits (lsbBit bs) k [true, true, false]) :
    readLsb bs k 3 = some 3 := by
  obtain ⟨hfinal, h⟩ := holdsBits_cons h
  obtain ⟨hlow, h⟩ := holdsBits_cons h
  obtain ⟨hhigh, -⟩ := holdsBits_cons h
  simp only [readLsb, hfinal, hlow, hhigh]
  rfl

/-- R310, R311: the trailer that stands after the block ends the command with the bytes inflated. -/
theorem streamNext_adlerTrailer {w : Work} (hphase : w.phase = .trailer) (hparams : w.params = none)
    (hread : w.input.drop (2 + alignUp w.inf.bitPos / 8) = unpack32 (adlerOfSums w.inf.infl)) :
    streamNext w = .done { w.pastTrailer with out := w.inf.infl } := by
  have hbytes : (w.input.drop (2 + alignUp w.inf.bitPos / 8)).take 4 = unpack32 (adler32 w.inf.infl).toNat := by
    rw [hread, toNat_adler32]
    rfl
  rw [streamNext_trailerBytes hphase hbytes, if_pos (unpack32_append _), hparams, Option.elim_none]

theorem fixedBlockBits_eq (bs : Bytes) : fixedBlockBits bs = [true, true, false] ++ literalBits bs := by
  rw [fixedBlockBits, List.append_assoc, literalBits]

/-- The registers past the header of a final block with the fixed codes. -/
def fixedBlockStart (bs : Bytes) : Work :=
  { flateStart bs none with
    phase := .data
    inf := { InflateRegs.start with
      bitPos := 3
      bfinal := true
      litCode := canonicalCode fixedLitLens
      distCode := canonicalCode fixedDistLens } }

/-- R291, R293: the two headers of the stream. -/
theorem runs_fixedHeaders {bs : Bytes} {r : Progress} (hcmf : bs[0]? = some 0x78) (hflg : bs[1]? = some 0x9C)
    (hbits : HoldsBits (lsbBit bs) 0 [true, true, false]) (hrest : (fixedBlockStart bs).Runs r) :
    (flateStart bs none).Runs r := by
  have hzlib : streamNext (flateStart bs none) = .running { flateStart bs none with phase := .blockHeader, inf := .start } :=
    (streamNext_zlibHeader (w := flateStart bs none) rfl hcmf hflg).trans (if_pos (by decide))
  have hblock : streamNext { flateStart bs none with phase := .blockHeader, inf := .start } =
      .running (fixedBlockStart bs) := streamNext_blockHeader (w := { flateStart bs none with phase := .blockHeader, inf := .start }) rfl
      (readLsb_fixedHeader hbits)
  exact .running hzlib (.running hblock hrest)

/-- Settles O58: the headers, the literals one turn each, the end of the block, and the trailer. -/
theorem fixedBlockStreamDecodes : Obligations.FixedBlockStreamDecodes := by
  intro bs s
  have hbits := holdsBits_packLsb (fixedBlockBits bs) 0x78 0x9C (unpack32 (adlerOfSums bs))
  rw [fixedBlockBits_eq] at hbits
  obtain ⟨hheader, hliterals⟩ := holdsBits_append hbits
  rw [← fixedBlockBits_eq] at hheader hliterals
  have hpos : alignUp (3 + (literalBits bs).length) / 8 = (packLsb (fixedBlockBits bs)).length := by
    rw [length_packLsb, fixedBlockBits_eq, List.length_append, alignUp]
    exact Nat.mul_div_cancel _ (by decide)
  have htrailer := streamNext_adlerTrailer (w := (fixedBlockStart (fixedStream bs)).pastLiterals bs) rfl rfl (by
    show (fixedStream bs).drop (2 + alignUp (3 + (literalBits bs).length) / 8) = unpack32 (adlerOfSums ([] ++ bs))
    rw [hpos, List.nil_append, fixedStream]
    exact List.drop_left' (by rw [List.length_append]; rfl))
  have hrun := runs_fixedHeaders (bs := fixedStream bs) rfl rfl hheader
    (runs_literals (bs := bs) rfl rfl rfl hliterals (.done htrailer))
  rw [exec_flateDecode_of_runs hrun, deliver_done]
  rfl

end Sys2Proof.Machine
